-- ==== Sys2Proof/Word.lean ====
section
/-! DEFINITION. The word types of the machine: bytes, 64-bit quadwords (general registers, binary64 patterns), linear
addresses and vector registers. -/

namespace Sys2Proof

/-- A byte (20_memory.md R40). -/
abbrev Byte := BitVec 8

/-- A 64-bit word: a general register, or a binary64 pattern (10_state.md R15, 40_numerics.md R102). -/
abbrev Quad := BitVec 64

/-- A linear address (20_memory.md R40). -/
abbrev Addr := BitVec 64

/-- A vector register at the largest width the spec admits, 512 bits (10_state.md R10).  A register of a machine with a
smaller MAXVL is held with zeros above. -/
abbrev Vec := BitVec 512

end Sys2Proof
end

