-- ==== Sys2Proof/Config.lean ====
section
/-! DEFINITION. What an implementation fixes: the parameters of 00_scope.md section A4 as one record of plain data, held
constant for the run (log 1), and the free values those parameters can leave open (log 13, 14, 15). -/

namespace Sys2Proof

/-- A rounding mode (40_numerics.md R104): nearest even, down, up, toward zero. -/
inductive RM where
  | rn | rd | ru | rz
deriving DecidableEq, Repr

/-- A set of floating-point exceptions, a subset of IE, DE, OE, UE, PE (40_numerics.md R119).  ZE is never a member (R33). -/
structure Flags where
  ie : Bool := false
  de : Bool := false
  oe : Bool := false
  ue : Bool := false
  pe : Bool := false
deriving DecidableEq, Repr, Inhabited

/-- MAXVL, the width of a vector register: one of 128, 256, 512 (92_eei_decisions.md D3). -/
inductive MaxVl where
  | w128 | w256 | w512
deriving DecidableEq, Repr

/-- VA_BITS, the number of significant linear-address bits: 48 or 57 (20_memory.md R50). -/
inductive VaBits where
  | va48 | va57
deriving DecidableEq, Repr

/-- The parameter `nan_rule` (40_numerics.md R108, D16). -/
inductive NanRule where
  /-- The spec's default: the first NaN in the order x, y, z, quieted. -/
  | firstOperand
  /-- Some quiet NaN, a free value. -/
  | free
deriving DecidableEq, Repr

/-- The parameter `de_rule` (40_numerics.md R111, D17). -/
inductive DeRule where
  /-- The spec's default: DE whenever an operand is a denormal at the point R106 gives. -/
  | anyDenormal
  /-- Whether a denormal operand signals DE is a free value. -/
  | free
deriving DecidableEq, Repr

/-- The parameter `fault_flags` (40_numerics.md R117, D19). -/
inductive TrapRule where
  /-- The spec's default: PE accompanies an unmasked OE or UE exactly when the 53-bit rounding is inexact. -/
  | inexact53
  /-- Whether PE accompanies an unmasked OE or UE is a free value. -/
  | peFree
  /-- D19's cautious model: the flags a trap sets are a free value. -/
  | anyFlags
deriving DecidableEq, Repr

/-- The three numeric parameters together. -/
structure NumRules where
  nan : NanRule := .firstOperand
  de : DeRule := .anyDenormal
  trap : TrapRule := .inexact53
deriving DecidableEq, Repr

/-- The implementation parameters (00_scope.md section A4). -/
structure Config where
  maxvl : MaxVl := .w512
  fma : Bool := true
  avx512f : Bool := true
  kw : Nat := 64
  va : VaBits := .va48
  maskSuppressesMemFault : Bool := true
  rules : NumRules := {}
deriving DecidableEq, Repr

/-- The parameters are ones 00_scope.md A4 names: KW at least 1 (D23), and AVX512F only with MAXVL = 512 (D3).  No meaning
looks at this: an instruction runs whatever MAXVL and KW are (log 25). -/
def Config.wf (c : Config) : Bool :=
  decide (1 ≤ c.kw) && (!c.avx512f || decide (c.maxvl = .w512))

/-- Free value (log 13): which NaN is returned under `nan_rule` = free. -/
opaque Config.freeNan : Quad → Quad → Quad → Quad

/-- Free value (log 14): whether a denormal operand signals DE under `de_rule` = free. -/
opaque Config.freeDe : Quad → Quad → Quad → Bool

/-- Free value (log 15): whether PE accompanies an unmasked OE or UE under `fault_flags` = peFree. -/
opaque Config.freeTrapPe : Quad → Quad → Quad → RM → Bool

/-- Free value (log 15): the flags a trap sets under `fault_flags` = anyFlags. -/
opaque Config.freeTrapFlags : Quad → Quad → Quad → RM → Flags

end Sys2Proof
end

