-- ==== Sys2Proof/Syntax.lean ====
section
/-! DEFINITION. The instructions: one constructor of `Instr` for each of the six rows of the opcode table (30_encoding.md
R80), with operands that keep every bit of the encoding, the ignored ones too. -/

namespace Sys2Proof

/-- A segment-override byte: 26H ES, 2EH CS, 36H SS, 3EH DS, 64H FS, 65H GS (30_encoding.md R61). -/
inductive Seg where
  | es | cs | ss | ds | fs | gs
deriving DecidableEq, Repr

/-- The permitted legacy bytes before VEX or EVEX: at most one segment override and at most one 67H, in either order
(30_encoding.md R61). -/
inductive Prefixes where
  | none
  | seg (s : Seg)
  | a32
  | segA32 (s : Seg)
  | a32Seg (s : Seg)
deriving DecidableEq, Repr

/-- A displacement: none, `disp8` or `disp32` (30_encoding.md R69). -/
inductive Disp where
  | none
  | d8 (d : Byte)
  | d32 (d : BitVec 32)
deriving DecidableEq, Repr

/-- A memory operand, one constructor for each case of the address computation (30_encoding.md R72).  Register numbers
are 4 bits, the X or B bit above the three bits of the byte; `x` and `b` are that bit where the case ignores it. -/
inductive MemOp where
  /-- mod 00, rm 101: RIP-relative. -/
  | rip (x b : Bool) (d : BitVec 32)
  /-- rm not 100: one base register. -/
  | base (x : Bool) (r : BitVec 4) (d : Disp)
  /-- SIB byte with a base. -/
  | sib (scale : BitVec 2) (index base : BitVec 4) (d : Disp)
  /-- mod 00, SIB.base 101: `disp32` and no base. -/
  | sibNoBase (b : Bool) (scale : BitVec 2) (index : BitVec 4) (d : BitVec 32)
deriving DecidableEq, Repr

/-- The third operand, ModRM.r/m (30_encoding.md R67).  A register keeps the X bit apart from B ++ rm: a VEX form ignores
X (R70), an EVEX form has it as bit 4 of the number (R71). -/
inductive Src3 where
  | reg (x : Bool) (n : BitVec 4)
  | mem (m : MemOp)
deriving DecidableEq, Repr

/-- The operands of a VEX form (30_encoding.md R62, R70, R81); `l` is the ignored VEX.L. -/
structure VexOps where
  pre : Prefixes
  l : Bool
  dest : BitVec 4
  src2 : BitVec 4
  src3 : Src3
deriving DecidableEq, Repr

/-- The operands of an EVEX form (30_encoding.md R65, R71, R82); `ll` is L'L, or RC under embedded rounding (R86). -/
structure EvexOps where
  pre : Prefixes
  z : Bool
  ll : BitVec 2
  b : Bool
  aaa : BitVec 3
  dest : BitVec 5
  src2 : BitVec 5
  src3 : Src3
deriving DecidableEq, Repr

/-- The six encodings (30_encoding.md R80). -/
inductive Instr where
  | vfnmsub132sdVex (o : VexOps)
  | vfnmsub213sdVex (o : VexOps)
  | vfnmsub231sdVex (o : VexOps)
  | vfnmsub132sdEvex (o : EvexOps)
  | vfnmsub213sdEvex (o : EvexOps)
  | vfnmsub231sdEvex (o : EvexOps)
deriving DecidableEq, Repr

end Sys2Proof
end

