-- ==== Sys2Proof/WellFormed.lean ====
section
/-! DEFINITION. Which instruction terms an encoding can produce: the addressing forms ModRM and SIB can express
(30_encoding.md R68, R69, R72) and, for EVEX, not the three encodings that raise #UD (R85). -/

namespace Sys2Proof

/-- The memory operand is one that ModRM and SIB express: a base register whose low bits are 100 needs a SIB byte, and one
whose low bits are 101 needs a displacement (30_encoding.md R72). -/
def MemOp.wf : MemOp → Bool
  | .rip _ _ _ => true
  | .base _ r d => r.extractLsb' 0 3 != 4#3 && (r.extractLsb' 0 3 != 5#3 || d != .none)
  | .sib _ _ b d => b.extractLsb' 0 3 != 5#3 || d != .none
  | .sibNoBase _ _ _ _ => true

def Src3.wf : Src3 → Bool
  | .reg _ _ => true
  | .mem m => m.wf

def Src3.isReg : Src3 → Bool
  | .reg _ _ => true
  | .mem _ => false

/-- The three EVEX encodings that raise #UD (30_encoding.md R85): (a) zeroing with no write-mask, (b) b = 1 on a memory
form, (c) L'L = 11 with b = 0. -/
def EvexOps.reserved (o : EvexOps) : Bool :=
  (o.z && o.aaa == 0#3) || (o.b && !o.src3.isReg) || (!o.b && o.ll == 3#2)

def VexOps.wf (o : VexOps) : Bool := o.src3.wf

def EvexOps.wf (o : EvexOps) : Bool := o.src3.wf && !o.reserved

def Instr.wf : Instr → Bool
  | .vfnmsub132sdVex o => o.wf
  | .vfnmsub213sdVex o => o.wf
  | .vfnmsub231sdVex o => o.wf
  | .vfnmsub132sdEvex o => o.wf
  | .vfnmsub213sdEvex o => o.wf
  | .vfnmsub231sdEvex o => o.wf

end Sys2Proof
end

