-- ==== Sys2Proof/Decode.lean ====
section
/-! DEFINITION. The decoder of 30_encoding.md R89, total on any list of bytes, and the encoder, both written from the
prefix layouts of R62 and R65 and the ModRM, SIB and displacement rules R67 to R71. -/

namespace Sys2Proof

/-- Why a run of legacy bytes is refused (30_encoding.md R61, D27): safe, the model gives the bytes no meaning. -/
inductive PrefixRefusal where
  | rexNotLast
  | twoSegmentPrefixes
  | twoAddressSizePrefixes
deriving DecidableEq, Repr

/-- The decoder's answers (30_encoding.md R89); `truncated` says that more bytes are needed. -/
inductive DecodeResult where
  | insn (i : Instr) (rest : List Byte)
  | ud
  | notInScope
  | refuse (why : PrefixRefusal)
  | truncated
deriving DecidableEq, Repr

/-! ## Legacy prefixes (R61) -/

/-- The segment a segment-override byte names. -/
def segOfByte (b : Byte) : Option Seg :=
  if b = 0x26#8 then some .es
  else if b = 0x2E#8 then some .cs
  else if b = 0x36#8 then some .ss
  else if b = 0x3E#8 then some .ds
  else if b = 0x64#8 then some .fs
  else if b = 0x65#8 then some .gs
  else none

/-- The segment-override byte of a segment. -/
def Seg.byte : Seg → Byte
  | .es => 0x26#8
  | .cs => 0x2E#8
  | .ss => 0x36#8
  | .ds => 0x3E#8
  | .fs => 0x64#8
  | .gs => 0x65#8

/-- 66H, F2H, F3H and F0H: the bytes that give #UD before VEX or EVEX (R61). -/
def isForbiddenByte (b : Byte) : Bool :=
  b == 0x66#8 || b == 0xF2#8 || b == 0xF3#8 || b == 0xF0#8

/-- 40H to 4FH: a REX byte. -/
def isRex (b : Byte) : Bool := b.extractLsb' 4 4 == 4#4

/-- One more segment override, if there was none. -/
def Prefixes.addSeg (p : Prefixes) (s : Seg) : Option Prefixes :=
  match p with
  | .none => some (.seg s)
  | .a32 => some (.a32Seg s)
  | .seg _ => Option.none
  | .segA32 _ => Option.none
  | .a32Seg _ => Option.none

/-- One more 67H, if there was none. -/
def Prefixes.addA32 (p : Prefixes) : Option Prefixes :=
  match p with
  | .none => some .a32
  | .seg s => some (.segA32 s)
  | .a32 => Option.none
  | .segA32 _ => Option.none
  | .a32Seg _ => Option.none

/-- The bytes of the permitted prefixes, in their order. -/
def Prefixes.bytes : Prefixes → List Byte
  | .none => []
  | .seg s => [s.byte]
  | .a32 => [0x67#8]
  | .segA32 s => [s.byte, 0x67#8]
  | .a32Seg s => [0x67#8, s.byte]

/-- nprefix of R77. -/
def Prefixes.count : Prefixes → Nat
  | .none => 0
  | .seg _ => 1
  | .a32 => 1
  | .segA32 _ => 2
  | .a32Seg _ => 2

/-! ## ModRM, SIB and displacement (R67, R68, R69) -/

/-- Four bytes as a little-endian 32-bit displacement. -/
def take32 : List Byte → Option (BitVec 32 × List Byte)
  | b0 :: b1 :: b2 :: b3 :: rest => some (b3 ++ b2 ++ b1 ++ b0, rest)
  | _ => none

/-- The displacement `mod` calls for, where no special case applies (R69). -/
def takeDisp (mod : BitVec 2) (bs : List Byte) : Option (Disp × List Byte) :=
  if mod = 0#2 then some (.none, bs)
  else if mod = 1#2 then
    match bs with
    | d :: rest => some (.d8 d, rest)
    | [] => none
  else (take32 bs).map fun (d, rest) => (.d32 d, rest)

/-- The memory operand of a ModRM byte with mod not 11b (R68, R69, R72). -/
def decodeMem (x b : Bool) (mod : BitVec 2) (rm : BitVec 3) (bs : List Byte) : Option (MemOp × List Byte) :=
  if rm = 4#3 then
    match bs with
    | [] => none
    | sb :: rest =>
      let scale := sb.extractLsb' 6 2
      let index := BitVec.ofBool x ++ sb.extractLsb' 3 3
      let base := sb.extractLsb' 0 3
      if mod = 0#2 ∧ base = 5#3 then
        (take32 rest).map fun (d, rest) => (.sibNoBase b scale index d, rest)
      else
        (takeDisp mod rest).map fun (d, rest) => (.sib scale index (BitVec.ofBool b ++ base) d, rest)
  else if mod = 0#2 ∧ rm = 5#3 then
    (take32 bs).map fun (d, rest) => (.rip x b d, rest)
  else
    (takeDisp mod bs).map fun (d, rest) => (.base x (BitVec.ofBool b ++ rm) d, rest)

/-- The third operand from the X and B bits, the ModRM byte and what follows it (R67). -/
def decodeSrc3 (x b : Bool) (modrm : Byte) (bs : List Byte) : Option (Src3 × List Byte) :=
  let mod := modrm.extractLsb' 6 2
  let rm := modrm.extractLsb' 0 3
  if mod = 3#2 then some (.reg x (BitVec.ofBool b ++ rm), bs)
  else (decodeMem x b mod rm bs).map fun (m, rest) => (.mem m, rest)

/-! ## The decoder (R89) -/

/-- The VEX row of an opcode byte (R80 rows 1 to 3). -/
def vexRow (op : Byte) : Option (VexOps → Instr) :=
  if op = 0x9F#8 then some .vfnmsub132sdVex
  else if op = 0xAF#8 then some .vfnmsub213sdVex
  else if op = 0xBF#8 then some .vfnmsub231sdVex
  else none

/-- The EVEX row of an opcode byte (R80 rows 4 to 6). -/
def evexRow (op : Byte) : Option (EvexOps → Instr) :=
  if op = 0x9F#8 then some .vfnmsub132sdEvex
  else if op = 0xAF#8 then some .vfnmsub213sdEvex
  else if op = 0xBF#8 then some .vfnmsub231sdEvex
  else none

/-- What follows the byte C4H (R62, R64, R70).  `bad` says that a forbidden byte stood before. -/
def decodeVex (pre : Prefixes) (bad : Bool) : List Byte → DecodeResult
  | b1 :: b2 :: op :: bs =>
    if b1.extractLsb' 0 5 = 2#5 ∧ b2.getLsbD 7 = true ∧ b2.extractLsb' 0 2 = 1#2 then
      match vexRow op with
      | none => .notInScope
      | some row =>
        if bad then .ud
        else
          match bs with
          | [] => .truncated
          | modrm :: bs =>
            match decodeSrc3 (!b1.getLsbD 6) (!b1.getLsbD 5) modrm bs with
            | none => .truncated
            | some (src3, rest) =>
              .insn (row
                { pre := pre
                  l := b2.getLsbD 2
                  dest := BitVec.ofBool (!b1.getLsbD 7) ++ modrm.extractLsb' 3 3
                  src2 := ~~~ b2.extractLsb' 3 4
                  src3 := src3 }) rest
    else .notInScope
  | _ => .truncated

/-- What follows the byte 62H (R65, R66, R71, R85). -/
def decodeEvex (pre : Prefixes) (bad : Bool) : List Byte → DecodeResult
  | p0 :: p1 :: p2 :: op :: bs =>
    if p0.extractLsb' 0 4 = 2#4 ∧ p1.getLsbD 7 = true ∧ p1.extractLsb' 0 3 = 5#3 then
      match evexRow op with
      | none => .notInScope
      | some row =>
        if bad then .ud
        else
          match bs with
          | [] => .truncated
          | modrm :: bs =>
            match decodeSrc3 (!p0.getLsbD 6) (!p0.getLsbD 5) modrm bs with
            | none => .truncated
            | some (src3, rest) =>
              let o : EvexOps :=
                { pre := pre
                  z := p2.getLsbD 7
                  ll := p2.extractLsb' 5 2
                  b := p2.getLsbD 4
                  aaa := p2.extractLsb' 0 3
                  dest := BitVec.ofBool (!p0.getLsbD 4) ++ BitVec.ofBool (!p0.getLsbD 7) ++ modrm.extractLsb' 3 3
                  src2 := BitVec.ofBool (!p2.getLsbD 3) ++ ~~~ p1.extractLsb' 3 4
                  src3 := src3 }
              if o.reserved then .ud else .insn (row o) rest
    else .notInScope
  | _ => .truncated

/-- The bytes after the legacy prefixes: C4H begins a VEX form, 62H an EVEX form (R89). -/
def decodeBody (pre : Prefixes) (bad : Bool) (b0 : Byte) (bs : List Byte) : DecodeResult :=
  if b0 = 0xC4#8 then decodeVex pre bad bs
  else if b0 = 0x62#8 then decodeEvex pre bad bs
  else .notInScope

/-- The prefix loop of R89: the prefixes so far, whether one was forbidden, and whether the last was a REX byte. -/
def decodeFrom (pre : Prefixes) (bad rexLast : Bool) : List Byte → DecodeResult
  | [] => .truncated
  | b :: bs =>
    match segOfByte b with
    | some s =>
      if rexLast then .refuse .rexNotLast
      else
        match pre.addSeg s with
        | none => .refuse .twoSegmentPrefixes
        | some p => decodeFrom p bad false bs
    | none =>
      if b = 0x67#8 then
        if rexLast then .refuse .rexNotLast
        else
          match pre.addA32 with
          | none => .refuse .twoAddressSizePrefixes
          | some p => decodeFrom p bad false bs
      else if isForbiddenByte b then
        if rexLast then .refuse .rexNotLast else decodeFrom pre true false bs
      else if isRex b then
        if rexLast then .refuse .rexNotLast else decodeFrom pre true true bs
      else decodeBody pre bad b bs

/-- The decoder (R89). -/
def decode (bs : List Byte) : DecodeResult := decodeFrom .none false false bs

/-! ## Lengths (R77) -/

/-- The number of bytes of a displacement. -/
def Disp.size : Disp → Nat
  | .none => 0
  | .d8 _ => 1
  | .d32 _ => 4

/-- SIB and displacement bytes after ModRM. -/
def Src3.tailSize : Src3 → Nat
  | .reg _ _ => 0
  | .mem (.rip _ _ _) => 4
  | .mem (.base _ _ d) => d.size
  | .mem (.sib _ _ _ d) => 1 + d.size
  | .mem (.sibNoBase _ _ _ _) => 5

/-- The length of a VEX form in bytes (R77 with P = 3). -/
def VexOps.length (o : VexOps) : Nat := o.pre.count + 3 + 1 + 1 + o.src3.tailSize

/-- The length of an EVEX form in bytes (R77 with P = 4). -/
def EvexOps.length (o : EvexOps) : Nat := o.pre.count + 4 + 1 + 1 + o.src3.tailSize

/-- The length of an instruction in bytes (R77). -/
def Instr.length : Instr → Nat
  | .vfnmsub132sdVex o => o.length
  | .vfnmsub213sdVex o => o.length
  | .vfnmsub231sdVex o => o.length
  | .vfnmsub132sdEvex o => o.length
  | .vfnmsub213sdEvex o => o.length
  | .vfnmsub231sdEvex o => o.length

/-! ## The encoder -/

/-- A 32-bit displacement as four bytes, least significant first (R69). -/
def bytes32 (d : BitVec 32) : List Byte :=
  [d.extractLsb' 0 8, d.extractLsb' 8 8, d.extractLsb' 16 8, d.extractLsb' 24 8]

def Disp.bytes : Disp → List Byte
  | .none => []
  | .d8 d => [d]
  | .d32 d => bytes32 d

/-- The mod field a displacement calls for. -/
def Disp.mod : Disp → BitVec 2
  | .none => 0#2
  | .d8 _ => 1#2
  | .d32 _ => 2#2

/-- The mod field of ModRM. -/
def Src3.mod : Src3 → BitVec 2
  | .reg _ _ => 3#2
  | .mem (.rip _ _ _) => 0#2
  | .mem (.base _ _ d) => d.mod
  | .mem (.sib _ _ _ d) => d.mod
  | .mem (.sibNoBase _ _ _ _) => 0#2

/-- The rm field of ModRM. -/
def Src3.rm : Src3 → BitVec 3
  | .reg _ n => n.extractLsb' 0 3
  | .mem (.rip _ _ _) => 5#3
  | .mem (.base _ r _) => r.extractLsb' 0 3
  | .mem (.sib _ _ _ _) => 4#3
  | .mem (.sibNoBase _ _ _ _) => 4#3

/-- The logical X bit. -/
def Src3.xBit : Src3 → Bool
  | .reg x _ => x
  | .mem (.rip x _ _) => x
  | .mem (.base x _ _) => x
  | .mem (.sib _ i _ _) => i.getLsbD 3
  | .mem (.sibNoBase _ _ i _) => i.getLsbD 3

/-- The logical B bit. -/
def Src3.bBit : Src3 → Bool
  | .reg _ n => n.getLsbD 3
  | .mem (.rip _ b _) => b
  | .mem (.base _ r _) => r.getLsbD 3
  | .mem (.sib _ _ b _) => b.getLsbD 3
  | .mem (.sibNoBase b _ _ _) => b

/-- The SIB and displacement bytes. -/
def Src3.tail : Src3 → List Byte
  | .reg _ _ => []
  | .mem (.rip _ _ d) => bytes32 d
  | .mem (.base _ _ d) => d.bytes
  | .mem (.sib sc i b d) => (sc ++ i.extractLsb' 0 3 ++ b.extractLsb' 0 3) :: d.bytes
  | .mem (.sibNoBase _ sc i d) => (sc ++ i.extractLsb' 0 3 ++ 5#3) :: bytes32 d

/-- The bytes of a VEX form with opcode byte `op` (R62, R64). -/
def VexOps.encode (op : Byte) (o : VexOps) : List Byte :=
  o.pre.bytes ++
    0xC4#8 ::
    (BitVec.ofBool (!o.dest.getLsbD 3) ++ BitVec.ofBool (!o.src3.xBit) ++ BitVec.ofBool (!o.src3.bBit) ++ 2#5) ::
    (1#1 ++ ~~~ o.src2 ++ BitVec.ofBool o.l ++ 1#2) ::
    op ::
    (o.src3.mod ++ o.dest.extractLsb' 0 3 ++ o.src3.rm) ::
    o.src3.tail

/-- The bytes of an EVEX form with opcode byte `op` (R65, R66). -/
def EvexOps.encode (op : Byte) (o : EvexOps) : List Byte :=
  o.pre.bytes ++
    0x62#8 ::
    (BitVec.ofBool (!o.dest.getLsbD 3) ++ BitVec.ofBool (!o.src3.xBit) ++ BitVec.ofBool (!o.src3.bBit) ++
      BitVec.ofBool (!o.dest.getLsbD 4) ++ 2#4) ::
    (1#1 ++ ~~~ o.src2.extractLsb' 0 4 ++ 5#3) ::
    (BitVec.ofBool o.z ++ o.ll ++ BitVec.ofBool o.b ++ BitVec.ofBool (!o.src2.getLsbD 4) ++ o.aaa) ::
    op ::
    (o.src3.mod ++ o.dest.extractLsb' 0 3 ++ o.src3.rm) ::
    o.src3.tail

/-- The bytes of an instruction, byte 0 first. -/
def encode : Instr → List Byte
  | .vfnmsub132sdVex o => o.encode 0x9F#8
  | .vfnmsub213sdVex o => o.encode 0xAF#8
  | .vfnmsub231sdVex o => o.encode 0xBF#8
  | .vfnmsub132sdEvex o => o.encode 0x9F#8
  | .vfnmsub213sdEvex o => o.encode 0xAF#8
  | .vfnmsub231sdEvex o => o.encode 0xBF#8

/-! ## A row of the opcode table as a number -/

/-- The `n` low bytes of `w`, least significant first. -/
def lowBytes : Nat → Nat → List Byte
  | 0, _ => []
  | n + 1, w => BitVec.ofNat 8 w :: lowBytes n (w / 256)

/-- The bytes, lowest address first, of a row of spec/opcode_table.json given as the number `w` of `nbits` bits.  The
table numbers a row with byte 0 in the most significant place (its match_mask_note); a number that does not begin C4H or
62H in that place is read with byte 0 least significant (log 2). -/
def tableBytes (nbits w : Nat) : List Byte :=
  let low := lowBytes (nbits / 8) w
  match low.reverse with
  | b :: bs => if b = 0xC4#8 ∨ b = 0x62#8 then b :: bs else low
  | [] => low

/-- The longest instruction, in bytes, that is ever fetched (R60). -/
def maxInstrBytes : Nat := 15

/-- A table row's bytes with zero bytes after them, `maxInstrBytes` in all. -/
def tableInstrBytes (nbits w : Nat) : List Byte :=
  (tableBytes nbits w ++ List.replicate maxInstrBytes 0#8).take maxInstrBytes

/-- The instruction the decoder reads from a table row. -/
def decodeTableWord (nbits w : Nat) : Option Instr :=
  match decode (tableInstrBytes nbits w) with
  | .insn i _ => some i
  | _ => none

end Sys2Proof
end

