-- ==== Sys2Proof/Machine/State.lean ====
section
/-! DEFINITION. The state of the machine, the reasons a step can stop, and the state after reset (10_state.md). -/

namespace Sys2Proof.Machine

open Sys2Proof

/-- The operating mode (00_scope.md R3 and A4, 60_exceptions.md R166). -/
inductive Mode where
  | real | virtual8086 | mode32 | mode64
deriving DecidableEq, Repr

/-- What a translation fault reports (60_exceptions.md R162, the #PF error code): P, RSVD and PK. -/
structure PfCause where
  protection : Bool
  reserved : Bool
  key : Bool
deriving DecidableEq, Repr

/-- One rule of the function Translate (20_memory.md R49): for the addresses `first` to `last` at privilege `cpl` the
translation faults with `cause`, or is Ok where `cause` is none.  The first rule that applies decides (log 7). -/
structure XlatRule where
  first : Addr
  last : Addr
  cpl : BitVec 2
  cause : Option PfCause
deriving DecidableEq, Repr

/-- A range of linear addresses, both ends included. -/
structure AddrRange where
  first : Addr
  last : Addr
deriving DecidableEq, Repr

/-- The state.  Each field cites the rule that names it; INVENTORY.md lists them with their reset values. -/
structure State where
  /-- V[0..31] (R10), each held in 512 bits, zero above MAXVL. -/
  v : Vector Vec 32
  /-- K[0..7] (R13), each held in 64 bits, zero above KW. -/
  k : Vector (BitVec 64) 8
  /-- G[0..15] (R15). -/
  g : Vector Quad 16
  /-- RIP (R20). -/
  rip : Addr
  /-- RFLAGS (R22). -/
  rflags : BitVec 64
  /-- MXCSR (R30). -/
  mxcsr : BitVec 32
  /-- CR0 (R34). -/
  cr0 : BitVec 64
  /-- CR2, the faulting linear address of the last #PF (R49, R162). -/
  cr2 : Addr
  /-- CR4 (R35). -/
  cr4 : BitVec 64
  /-- XCR0 (R36). -/
  xcr0 : BitVec 64
  /-- The base of CS, which 64-bit mode treats as zero (R17, R39). -/
  csBase : Addr
  /-- FS.base (R17). -/
  fsBase : Addr
  /-- GS.base (R17). -/
  gsBase : Addr
  /-- CPL (R37, R175). -/
  cpl : BitVec 2
  /-- The operating mode (R166). -/
  mode : Mode
  /-- The launch memory, a partial map in canonical form (R48). -/
  mem : List Host.Cell
  /-- Translate (R49). -/
  xlat : List XlatRule
  /-- The ranges that are not ordinary memory (R47). -/
  devices : List AddrRange
  /-- A breakpoint is armed (the launch premise of R179, log 19). -/
  debugArmed : Bool
  /-- The implementation parameters (00_scope.md A4), constant for the run. -/
  cfg : Config
deriving DecidableEq, Repr

/-- An exception with its recorded information (60_exceptions.md R162). -/
inductive Exc where
  /-- #UD, invalid opcode. -/
  | ud
  /-- #NM, device not available. -/
  | nm
  /-- #SS(0), stack-segment fault. -/
  | ss
  /-- #GP(0), general protection. -/
  | gp
  /-- #PF(ec), page fault at the linear address `addr`. -/
  | pf (ec : BitVec 6) (addr : Addr)
  /-- #AC(0), alignment check. -/
  | ac
  /-- #XM, SIMD floating-point exception. -/
  | xm
deriving DecidableEq, Repr

/-- Why the machine stops with a fault.  Both carry the state the fault leaves. -/
inductive Fault where
  /-- An exception is raised (R160): by the decoder (#UD), by a meaning (R164, R165), or by instruction fetch (#PF, log 8;
  #GP(0), log 9).  Terminal, as the spec says (D9): safe. -/
  | raised (x : Exc) (left : State)
  /-- Fetch or a data read touches an address at which the launch memory holds no byte although its translation is Ok
  (log 11): safe. -/
  | absentByte (addr : Addr) (left : State)
deriving DecidableEq, Repr

/-- Why the model gives a state or its bytes no meaning.  Every one is safe: the run ends. -/
inductive Refusal where
  /-- An instruction with no meaning yet (raised by exec's arms alone; none is left). -/
  | notModelled (mnemonic : String)
  /-- 32-bit mode, which the spec does not admit (R79, D2). -/
  | mode32
  /-- MXCSR[31:16] is not zero, which the hardware cannot be in (R32, K1.16). -/
  | mxcsrReserved
  /-- A breakpoint is armed or RFLAGS.TF is 1, against the launch premise of R179 (log 19). -/
  | debugArmed
  /-- The bytes are not one of the six encodings (R84, R85, R89, D1). -/
  | notInScope
  /-- The legacy prefixes are ones the spec gives no meaning (R61, D27). -/
  | badPrefixes (why : PrefixRefusal)
  /-- The instruction's bytes, or the address after it, leave the canonical range or wrap (R21, D21). -/
  | pcLeavesCanonical
  /-- Fetch or a data read touches memory that is not ordinary (R47). -/
  | deviceMemory
deriving DecidableEq, Repr

/-- The state after a hardware reset (10_state.md R39, 70_reset_and_hazards.md R190).  What R39 does not fix: log 1 (cfg),
log 6 (cr2), log 7 (xlat), log 11 (mem), log 12 (devices), log 17 (RDX), log 19 (debugArmed). -/
def State.reset : State where
  v := Vector.replicate 32 0#512
  k := Vector.replicate 8 0#64
  g := Vector.replicate 16 0#64
  rip := 0xFFF0#64
  rflags := 0x2#64
  mxcsr := 0x1F80#32
  cr0 := 0x60000010#64
  cr2 := 0#64
  cr4 := 0#64
  xcr0 := 1#64
  csBase := 0xFFFF0000#64
  fsBase := 0#64
  gsBase := 0#64
  cpl := 0#2
  mode := .real
  mem := []
  xlat := []
  devices := []
  debugArmed := false
  cfg := {}

end Sys2Proof.Machine
end

