-- ==== Sys2Proof/Machine/Ops.lean ====
section
/-! DEFINITION. The shared operations: fields of the control registers, reading and writing registers, memory, translation
and its checks, what stops an instruction, raising an exception, and completing an instruction. -/

namespace Sys2Proof.Machine

open Sys2Proof

/-- The outcome of a step of this machine. -/
abbrev Result := Host.Outcome State Fault Refusal

/-! ## Fields of the control state (10_state.md R22, R34, R35, R36) -/

def State.cr0PE (s : State) : Bool := s.cr0.getLsbD 0
def State.cr0EM (s : State) : Bool := s.cr0.getLsbD 2
def State.cr0TS (s : State) : Bool := s.cr0.getLsbD 3
def State.cr0AM (s : State) : Bool := s.cr0.getLsbD 18
def State.cr0PG (s : State) : Bool := s.cr0.getLsbD 31
def State.osfxsr (s : State) : Bool := s.cr4.getLsbD 9
def State.osxmmexcpt (s : State) : Bool := s.cr4.getLsbD 10
def State.osxsave (s : State) : Bool := s.cr4.getLsbD 18
def State.rflagsAC (s : State) : Bool := s.rflags.getLsbD 18

/-- RFLAGS.TF, single-stepping (60_exceptions.md R179); PRESUMED bit 8 (log 19). -/
def State.rflagsTF (s : State) : Bool := s.rflags.getLsbD 8

/-- XCR0[2:1] = 11b: SSE and AVX state enabled (R36). -/
def State.avxState (s : State) : Bool := s.xcr0.extractLsb' 1 2 == 3#2

/-- XCR0[7:5] = 111b: opmask, ZMM_Hi256 and Hi16_ZMM state enabled (R36). -/
def State.avx512State (s : State) : Bool := s.xcr0.extractLsb' 5 3 == 7#3

/-! ## Registers (10_state.md R10 to R16) -/

/-- V[i]. -/
def State.readV (s : State) (i : BitVec 5) : Vec := s.v[i.toNat]'i.isLt

/-- V[i] <- x. -/
def State.writeV (s : State) (i : BitVec 5) (x : Vec) : State := { s with v := s.v.set i.toNat x i.isLt }

/-- V[i][63:0]. -/
def State.low (s : State) (i : BitVec 5) : Quad := (s.readV i).extractLsb' 0 64

/-- V[i][127:64]. -/
def State.hi (s : State) (i : BitVec 5) : Quad := (s.readV i).extractLsb' 64 64

/-- XMM, YMM and ZMM are views of one register (R10). -/
def State.xmm (s : State) (i : BitVec 5) : BitVec 128 := (s.readV i).extractLsb' 0 128
def State.ymm (s : State) (i : BitVec 5) : BitVec 256 := (s.readV i).extractLsb' 0 256

/-- RIP <- a. -/
def State.setRip (s : State) (a : Addr) : State := { s with rip := a }

/-- CR2 <- a (R162). -/
def State.setCr2 (s : State) (a : Addr) : State := { s with cr2 := a }

/-- Replace the launch memory. -/
def State.setMem (s : State) (m : List Host.Cell) : State := { s with mem := m }

/-- The destination write shared by every form (41 R133, 42 R148 line 8): bits 63:0 become `q`, bits 127:64 keep their
value, and every bit above is zeroed. -/
def State.writeLow (s : State) (i : BitVec 5) (q : Quad) : State :=
  s.writeV i ((s.hi i ++ q).setWidth 512)

/-- K[j]. -/
def State.readK (s : State) (j : BitVec 3) : BitVec 64 := s.k[j.toNat]'j.isLt

/-- G[r]. -/
def State.readG (s : State) (r : BitVec 4) : Quad := s.g[r.toNat]'r.isLt

/-- MAXVL as a number (00_scope.md A4). -/
def maxvlBits : MaxVl → Nat
  | .w128 => 128
  | .w256 => 256
  | .w512 => 512

/-! ## Memory (20_memory.md R41, R42, R48) -/

/-- The byte at an address, none where the launch memory holds none (log 11). -/
def memByte : List Host.Cell → Nat → Option Byte
  | [], _ => none
  | (a, b) :: m, x => if a = x then some b else memByte m x

/-- Write one byte, in the canonical form. -/
def memSet : List Host.Cell → Nat → Byte → List Host.Cell
  | [], x, b => [(x, b)]
  | (a, c) :: m, x, b =>
    if x < a then (x, b) :: (a, c) :: m
    else if x = a then (x, b) :: m
    else (a, c) :: memSet m x b

/-- Write bytes at rising addresses (modulo 2^64). -/
def memSetBytes (m : List Host.Cell) (a : Addr) : List Byte → List Host.Cell
  | [] => m
  | b :: bs => memSetBytes (memSet m a.toNat b) (a + 1#64) bs

/-- The canonical form: addresses strictly rising, all below 2^64.  No byte is what an unlisted address reads as, since an
unlisted address has none. -/
abbrev Memory.wf (m : List Host.Cell) : Prop :=
  m.Pairwise (fun c d => c.1 < d.1) ∧ ∀ c ∈ m, c.1 < 2 ^ 64

/-- The addresses of the 8 bytes of a quadword, ascending modulo 2^64 (R42). -/
def quadAddrs (a : Addr) : List Addr :=
  [a, a + 1#64, a + 2#64, a + 3#64, a + 4#64, a + 5#64, a + 6#64, a + 7#64]

/-- The value of MemRead(addr, 8): little-endian, the byte at `addr` in bits 7:0 (R41, R42).  An absent byte counts as zero
here; `readQuad` stops before that matters. -/
def quadValue (m : List Host.Cell) (a : Addr) : Quad :=
  let byte := fun (x : Addr) => (memByte m x.toNat).getD 0#8
  byte (a + 7#64) ++ byte (a + 6#64) ++ byte (a + 5#64) ++ byte (a + 4#64) ++
    byte (a + 3#64) ++ byte (a + 2#64) ++ byte (a + 1#64) ++ byte a

/-! ## Addresses: canonical form, translation, device windows (R47, R49, R50) -/

/-- VA_BITS as a number (R50). -/
def vaBits : VaBits → Nat
  | .va48 => 48
  | .va57 => 57

/-- Canonical: bits 63 down to VA_BITS - 1 are all equal (R50). -/
def canonical (va : VaBits) (a : Addr) : Bool :=
  let top := a.toNat / 2 ^ (vaBits va - 1)
  top == 0 || top == 2 ^ (65 - vaBits va) - 1

/-- The address lies in the range. -/
def AddrRange.has (r : AddrRange) (a : Addr) : Bool := r.first ≤ a && a ≤ r.last

/-- Translate(addr, CPL): none is Ok (R49). -/
def translate : List XlatRule → Addr → BitVec 2 → Option PfCause
  | [], _, _ => none
  | r :: rs, a, c => if r.first ≤ a ∧ a ≤ r.last ∧ r.cpl = c then r.cause else translate rs a c

/-- The #PF error code (60_exceptions.md R162): P, W/R = 0, U/S, RSVD, I/D, PK from bit 0 up. -/
def pfErrorCode (c : PfCause) (cpl : BitVec 2) (fetch : Bool) : BitVec 6 :=
  BitVec.ofBool c.key ++ BitVec.ofBool fetch ++ BitVec.ofBool c.reserved ++ BitVec.ofBool (cpl == 3#2) ++
    0#1 ++ BitVec.ofBool c.protection

/-- The page fault of one byte access, if its translation faults (R49, R162). -/
def State.pageFault (s : State) (fetch : Bool) (a : Addr) : Option Exc :=
  (translate s.xlat a s.cpl).map fun c => .pf (pfErrorCode c s.cpl fetch) a

/-- The address is not ordinary memory (R47). -/
def State.isDevice (s : State) (a : Addr) : Bool := s.devices.any (·.has a)

/-- The launch memory holds no byte there (log 11). -/
def State.isAbsent (s : State) (a : Addr) : Bool := (memByte s.mem a.toNat).isNone

/-! ## What stops an instruction -/

/-- A stop before the state it leaves is known. -/
inductive Stop where
  | exc (x : Exc)
  | absent (a : Addr)
  | refuse (r : Refusal)
deriving DecidableEq, Repr

/-- `raise X(info)` (60_exceptions.md R160), the one way every exception is taken: the fault carries the exception and the
state as it stands; a page fault records its address in CR2 (R162, log 6). -/
def raise (x : Exc) (s : State) : Result :=
  match x with
  | .pf ec a => .fault (.raised (.pf ec a) (s.setCr2 a))
  | x => .fault (.raised x s)

/-- End the instruction with a stop. -/
def stop (st : Stop) (s : State) : Result :=
  match st with
  | .exc x => raise x s
  | .absent a => .fault (.absentByte a s)
  | .refuse r => .refused r

/-- The vector of an exception (R162). -/
def excVector : Exc → Nat
  | .ud => 6
  | .nm => 7
  | .ss => 12
  | .gp => 13
  | .pf _ _ => 14
  | .ac => 17
  | .xm => 19

/-- The error code of an exception, none where it has none (R162). -/
def excErrorCode : Exc → Option (BitVec 6)
  | .ud => none
  | .nm => none
  | .ss => some 0#6
  | .gp => some 0#6
  | .pf ec _ => some ec
  | .ac => some 0#6
  | .xm => none

/-! ## The 8-byte data read (20_memory.md R42, R45, R47 to R50; 60_exceptions.md R168) -/

/-- Alignment checking is enabled (R45). -/
def State.alignmentChecked (s : State) : Bool := s.cr0AM && s.rflagsAC && s.cpl == 3#2

/-- MemRead(addr, 8) with its checks in the order of R168; `usesSS` chooses #SS(0) over #GP(0) (R50). -/
def readQuad (s : State) (usesSS : Bool) (a : Addr) : Except Stop Quad :=
  if (quadAddrs a).any (fun x => !canonical s.cfg.va x) then
    .error (.exc (if usesSS then .ss else .gp))
  else
    match (quadAddrs a).findSome? (s.pageFault false) with
    | some x => .error (.exc x)
    | none =>
      if s.alignmentChecked && a.toNat % 8 != 0 then .error (.exc .ac)
      else if (quadAddrs a).any s.isDevice then .error (.refuse .deviceMemory)
      else
        match (quadAddrs a).find? s.isAbsent with
        | some x => .error (.absent x)
        | none => .ok (quadValue s.mem a)

/-! ## Instruction fetch (10_state.md R20, R21; 20_memory.md R41) -/

/-- The linear address of the instruction: RIP, above CS.base outside 64-bit mode (R17, R39). -/
def State.fetchBase (s : State) : Addr := if s.mode = .mode64 then s.rip else s.csBase + s.rip

/-- Fetch the byte `i` places after the instruction's first (D21, log 8). -/
def fetchByte (s : State) (i : Nat) : Except Stop Byte :=
  let a := s.fetchBase + BitVec.ofNat 64 i
  if s.fetchBase.toNat + i ≥ 2 ^ 64 || !canonical s.cfg.va a then .error (.refuse .pcLeavesCanonical)
  else
    match s.pageFault true a with
    | some x => .error (.exc x)
    | none =>
      if s.isDevice a then .error (.refuse .deviceMemory)
      else
        match memByte s.mem a.toNat with
        | none => .error (.absent a)
        | some b => .ok b

/-- Fetch `n` bytes from place `i` on: the bytes up to the first that cannot be had, and why it cannot; after all `n`, that
the instruction is too long, #GP(0) (R60). -/
def fetchFrom (s : State) : Nat → Nat → List Byte × Stop
  | _, 0 => ([], .exc .gp)
  | i, n + 1 =>
    match fetchByte s i with
    | .error st => ([], st)
    | .ok b => let (bs, st) := fetchFrom s (i + 1) n; (b :: bs, st)

/-- The bytes at the program counter, at most 15 (R60). -/
def fetch (s : State) : List Byte × Stop := fetchFrom s 0 maxInstrBytes

/-- The bytes stored where the next instruction is fetched. -/
def placeBytes (s : State) (bs : List Byte) : State := s.setMem (memSetBytes s.mem s.fetchBase bs)

/-! ## Launch premises and state checks -/

/-- The launch states the spec does not admit (R32, R79, R179; D2).  A breakpoint is armed where the state says so,
single-stepping where RFLAGS.TF is 1. -/
def admission (s : State) : Option Refusal :=
  if s.mode = .mode32 then some .mode32
  else if s.mxcsr.extractLsb' 16 16 != 0#16 then some .mxcsrReserved
  else if s.debugArmed || s.rflagsTF then some .debugArmed
  else none

/-- Real-address or virtual-8086 mode, where the prefixes are not recognised (R166). -/
def State.noVexMode (s : State) : Bool := !s.cr0PE || s.mode == .real || s.mode == .virtual8086

/-- The #UD conditions of the state for a VEX form (R164). -/
def udVex (s : State) : Bool := s.noVexMode || !s.osxsave || !s.avxState || !s.cfg.fma

/-- The #UD conditions of the state for an EVEX form (R165). -/
def udEvex (s : State) : Bool :=
  s.noVexMode || !s.osxsave || !s.avxState || !s.avx512State || !s.cfg.avx512f

/-! ## Completing an instruction (10_state.md R20, R21) -/

/-- `pc <- pc + len`; refused where pc + len is not canonical or passes 2^64 - 1 (D21, log 10). -/
def complete (len : Nat) (s : State) : Result :=
  let next := s.rip + BitVec.ofNat 64 len
  if s.rip.toNat + len < 2 ^ 64 && canonical s.cfg.va next then .next (s.setRip next)
  else .refused .pcLeavesCanonical

end Sys2Proof.Machine
end

