-- ==== Sys2Proof/Machine/Flags.lean ====
section
/-! DEFINITION. MXCSR: its fields, the accumulation of its status flags, and the floating-point trap (10_state.md R30, R31;
40_numerics.md R117, R118; 60_exceptions.md R163). -/

namespace Sys2Proof.Machine

open Sys2Proof

/-- The encoding of a rounding mode, the same in MXCSR.RM and EVEX.RC (40_numerics.md R104). -/
def rmOfBits (b : BitVec 2) : RM :=
  if b = 0#2 then .rn else if b = 1#2 then .rd else if b = 2#2 then .ru else .rz

/-- MXCSR.RM, bits 14:13 (R30). -/
def State.rm (s : State) : RM := rmOfBits (s.mxcsr.extractLsb' 13 2)

/-- What FNMSUB64 takes from MXCSR and the encoding (40_numerics.md R119).  A mask bit of 1 masks. -/
structure Ctl where
  daz : Bool
  ftz : Bool
  im : Bool
  dm : Bool
  om : Bool
  um : Bool
  pm : Bool
  sae : Bool
deriving DecidableEq, Repr

/-- The control bits of MXCSR (R30). -/
def State.ctl (s : State) (sae : Bool) : Ctl where
  daz := s.mxcsr.getLsbD 6
  im := s.mxcsr.getLsbD 7
  dm := s.mxcsr.getLsbD 8
  om := s.mxcsr.getLsbD 10
  um := s.mxcsr.getLsbD 11
  pm := s.mxcsr.getLsbD 12
  ftz := s.mxcsr.getLsbD 15
  sae := sae

/-- The five masks as they act: all 1 under SAE (42_vfnmsub_sd_evex.md R146). -/
def Ctl.effective (c : Ctl) : Ctl :=
  if c.sae then { c with im := true, dm := true, om := true, um := true, pm := true } else c

/-- A set of exceptions as bits 5:0 of MXCSR: PE UE OE ZE DE IE, ZE never (R30, R33). -/
def flagBits (f : Flags) : BitVec 6 :=
  BitVec.ofBool f.pe ++ BitVec.ofBool f.ue ++ BitVec.ofBool f.oe ++ 0#1 ++ BitVec.ofBool f.de ++ BitVec.ofBool f.ie

/-- `MXCSR[5:0] <- MXCSR[5:0] OR flags` (R118). -/
def State.orFlags (s : State) (f : Flags) : State := { s with mxcsr := s.mxcsr ||| (flagBits f).setWidth 32 }

/-- The floating-point trap (60_exceptions.md R163): set the flags, then #XM, or #UD where CR4.OSXMMEXCPT is 0. -/
def fpTrap (f : Flags) (s : State) : Result :=
  raise (if s.osxmmexcpt then .xm else .ud) (s.orFlags f)

end Sys2Proof.Machine
end

