-- ==== Sys2Proof/Machine/Binary64.lean ====
section
/-! DEFINITION. The binary64 format and its rounding (40_numerics.md R102, R104, R113, R114, R115).  An exact value `v` is held
as the integer `v * 2^2200`: every value -(x*y) - z of finite operands is a multiple of 2^-2148, and 52 more places make
the 53-bit quotient of R113 a division by a power of two. -/

namespace Sys2Proof.Machine

open Sys2Proof

/-! ## The format (R102) -/

/-- The sign bit, u[63]. -/
def signBit (u : Quad) : Bool := u.getLsbD 63

/-- The biased exponent, u[62:52]. -/
def biasedExp (u : Quad) : Nat := (u.extractLsb' 52 11).toNat

/-- The fraction, u[51:0]. -/
def fraction (u : Quad) : Nat := (u.extractLsb' 0 52).toNat

def isNan (u : Quad) : Bool := biasedExp u == 2047 && fraction u != 0
def isSnan (u : Quad) : Bool := isNan u && !u.getLsbD 51
def isInf (u : Quad) : Bool := biasedExp u == 2047 && fraction u == 0
def isZero (u : Quad) : Bool := biasedExp u == 0 && fraction u == 0
def isDenormal (u : Quad) : Bool := biasedExp u == 0 && fraction u != 0
def isFinite (u : Quad) : Bool := biasedExp u != 2047

/-- `quiet(u)`: bit 51 set (R102). -/
def quiet (u : Quad) : Quad := u ||| 0x0008000000000000#64

/-- The QNaN real indefinite, QNAN_INDEF (R102). -/
def qnanIndef : Quad := 0xFFF8000000000000#64

/-- The pattern with these fields. -/
def assemble (s : Bool) (e f : Nat) : Quad := BitVec.ofBool s ++ BitVec.ofNat 11 e ++ BitVec.ofNat 52 f

/-- The zero, the infinity and the largest finite number MAXF of a sign (R102). -/
def signedZero (s : Bool) : Quad := assemble s 0 0
def signedInf (s : Bool) : Quad := assemble s 2047 0
def signedMax (s : Bool) : Quad := assemble s 2046 (2 ^ 52 - 1)

/-- |val(u)| * 2^1074 for a finite pattern, an integer (R102). -/
def magnitude (u : Quad) : Nat :=
  if biasedExp u = 0 then fraction u else (2 ^ 52 + fraction u) * 2 ^ (biasedExp u - 1)

/-- val(u) * 2^1074 for a finite pattern. -/
def scaledVal (u : Quad) : Int := if signBit u then -(magnitude u : Int) else magnitude u

/-- `val(u)`, the exact rational value of a finite pattern (R102). -/
def val (u : Quad) : Rat := (scaledVal u : Rat) / 2 ^ 1074

/-! ## Rounding (R104, R113) -/

/-- `RInt(num/den, s, rm)` of R113 for a non-negative rational. -/
def rint (num den : Nat) (s : Bool) (rm : RM) : Nat :=
  let q := num / den
  let r := num % den
  if r = 0 then q
  else
    match rm with
    | .rn => if 2 * r < den then q else if den < 2 * r then q + 1 else if q % 2 = 0 then q else q + 1
    | .rz => q
    | .ru => if s then q else q + 1
    | .rd => if s then q + 1 else q

/-- The number of fixed-point places of an exact value. -/
def scale : Nat := 2200

/-- -(val(x) * val(y)) - val(z), exact, times 2^2200 (R100). -/
def exactScaled (x y z : Quad) : Int :=
  -(scaledVal x * scaledVal y) * 2 ^ 52 - scaledVal z * 2 ^ 1126

/-- The unit of R113's quotient, 2^(e-52) at this scale, for a magnitude with leading bit `e`. -/
def ulp53 (m : Nat) : Nat := 2 ^ (m.log2 - 52)

/-- The precision-rounded magnitude `r` of R113, times 2^2200. -/
def round53 (m : Nat) (s : Bool) (rm : RM) : Nat := rint m (ulp53 m) s rm * ulp53 m

/-- `inexact1` of R113. -/
def inexact53 (m : Nat) : Bool := m % ulp53 m != 0

/-- r > MAXF (R114). -/
def overflows (r : Nat) : Bool := decide ((2 ^ 53 - 1) * 2 ^ (971 + scale) < r)

/-- r < 2^-1022 (R115). -/
def isTiny (r : Nat) : Bool := decide (r < 2 ^ (scale - 1022))

/-- The denormal unit 2^-1074 at this scale (R115). -/
def denormUnit : Nat := 2 ^ (scale - 1074)

/-- `nd` of R115 (c). -/
def roundDenorm (m : Nat) (s : Bool) (rm : RM) : Nat := rint m denormUnit s rm

/-- `inexact2` of R115 (c). -/
def inexactDenorm (m : Nat) : Bool := m % denormUnit != 0

/-- The pattern of sign `s` and magnitude `r` (times 2^2200) in the normal range (R113). -/
def encodeNormal (s : Bool) (r : Nat) : Quad :=
  assemble s (r.log2 + 1023 - scale) (r / 2 ^ (r.log2 - 52) - 2 ^ 52)

/-- The pattern of sign `s` and magnitude nd * 2^-1074, nd at most 2^52 (R115). -/
def encodeDenorm (s : Bool) (nd : Nat) : Quad :=
  if nd < 2 ^ 52 then assemble s 0 nd else assemble s 1 0

/-- The masked overflow result (R114). -/
def overflowResult (s : Bool) (rm : RM) : Quad :=
  match rm with
  | .rn => signedInf s
  | .rd => if s then signedInf s else signedMax s
  | .ru => if s then signedMax s else signedInf s
  | .rz => signedMax s

end Sys2Proof.Machine
end

