-- ==== Sys2Proof/Machine/Fnmsub.lean ====
section
/-! DEFINITION. FNMSUB64, the fused negative multiply-subtract all six encodings share (40_numerics.md R119). -/

namespace Sys2Proof.Machine

open Sys2Proof

/-- What FNMSUB64 returns (R119). -/
inductive FpResult where
  | value (res : Quad) (f : Flags)
  | trap (f : Flags)
deriving DecidableEq, Repr

/-- Deliver a result, or trap if the last exception signalled is unmasked. -/
def deliver (masked : Bool) (res : Quad) (f : Flags) : FpResult := if masked then .value res f else .trap f

/-- Denormals are zeros (R107). -/
def dazOperand (daz : Bool) (u : Quad) : Quad :=
  if daz && isDenormal u then signedZero (signBit u) else u

/-- The sign of -(x*y), `sp` of R109. -/
def productSign (x y : Quad) : Bool := !(signBit x ^^ signBit y)

/-- The sign of -z, `st` of R109. -/
def subtrahendSign (z : Quad) : Bool := !signBit z

/-- The NaN that is returned, by `nan_rule` (R108, D16). -/
def chosenNan (n : NanRule) (x y z : Quad) : Quad :=
  match n with
  | .firstOperand => if isNan x then quiet x else if isNan y then quiet y else quiet z
  | .free => Config.freeNan x y z ||| 0x7FF8000000000000#64

/-- The NaN operands' stage (R108). -/
def nanStage (n : NanRule) (x y z : Quad) (c : Ctl) : FpResult :=
  if isSnan x || isSnan y || isSnan z then deliver c.im (chosenNan n x y z) { ie := true }
  else .value (chosenNan n x y z) {}

/-- An invalid combination (R109): infinity times zero, or infinite terms of opposite signs. -/
def isInvalid (x y z : Quad) : Bool :=
  (isInf x && isZero y) || (isZero x && isInf y) ||
    ((isInf x || isInf y) && isInf z && (productSign x y != subtrahendSign z))

/-- DE is signalled, by `de_rule` (R111, D17). -/
def signalsDe (d : DeRule) (x y z : Quad) : Bool :=
  (isDenormal x || isDenormal y || isDenormal z) &&
    match d with
    | .anyDenormal => true
    | .free => Config.freeDe x y z

/-- An exact zero result (R112). -/
def exactZero (x y z : Quad) (rm : RM) : Quad :=
  if (isZero x || isZero y) && isZero z && (productSign x y == subtrahendSign z) then signedZero (productSign x y)
  else signedZero (rm == .rd)

/-- Whether PE accompanies a trap on an unmasked OE or UE, by `fault_flags` (R117, D19); `pe` is the free choice. -/
def trapPe (t : TrapRule) (inexact1 pe : Bool) : Bool :=
  match t with
  | .peFree => pe
  | _ => inexact1

/-- Rounding a finite non-zero exact value (R113 to R117): `v` is the value times 2^2200, `f` the flags so far and `pe` the
free choice of `trapPe`. -/
def roundStage (t : TrapRule) (v : Int) (rm : RM) (c : Ctl) (f : Flags) (pe : Bool) : FpResult :=
  let s := decide (v < 0)
  let m := v.natAbs
  let r := round53 m s rm
  if overflows r then
    if !c.om then .trap { f with oe := true, pe := trapPe t (inexact53 m) pe }
    else deliver c.pm (overflowResult s rm) { f with oe := true, pe := true }
  else if isTiny r then
    if !c.um then .trap { f with ue := true, pe := trapPe t (inexact53 m) pe }
    else if c.ftz then deliver c.pm (signedZero s) { f with ue := true, pe := true }
    else if inexactDenorm m then
      deliver c.pm (encodeDenorm s (roundDenorm m s rm)) { f with ue := true, pe := true }
    else .value (encodeDenorm s (roundDenorm m s rm)) f
  else if inexact53 m then deliver c.pm (encodeNormal s r) { f with pe := true }
  else .value (encodeNormal s r) f

/-- The stages after the NaN and invalid cases (R106): denormal operand, infinities, exact zero, rounding. -/
def numberStage (p : NumRules) (x y z : Quad) (rm : RM) (c : Ctl) : FpResult :=
  let f : Flags := { de := signalsDe p.de x y z }
  if f.de && !c.dm then .trap f
  else if isInf x || isInf y then .value (signedInf (productSign x y)) f
  else if isInf z then .value (signedInf (subtrahendSign z)) f
  else if exactScaled x y z = 0 then .value (exactZero x y z rm) f
  else roundStage p.trap (exactScaled x y z) rm c f (Config.freeTrapPe x y z rm)

/-- The operation on operands after DAZ, with the masks as they act. -/
def fnmsubCore (p : NumRules) (x y z : Quad) (rm : RM) (c : Ctl) : FpResult :=
  if isNan x || isNan y || isNan z then nanStage p.nan x y z c
  else if isInvalid x y z then deliver c.im qnanIndef { ie := true }
  else numberStage p x y z rm c

/-- The flags a trap sets, by `fault_flags` (D19). -/
def trapFlags (t : TrapRule) (f free : Flags) : Flags :=
  match t with
  | .anyFlags => free
  | _ => f

/-- FNMSUB64(x, y, z, rm, ctl) (R119), with the numeric parameters `p`. -/
def fnmsub64 (p : NumRules) (x y z : Quad) (rm : RM) (ctl : Ctl) : FpResult :=
  let c := ctl.effective
  let x := dazOperand c.daz x
  let y := dazOperand c.daz y
  let z := dazOperand c.daz z
  match fnmsubCore p x y z rm c with
  | .value res f => .value res f
  | .trap f => .trap (trapFlags p.trap f (Config.freeTrapFlags x y z rm))

end Sys2Proof.Machine
end

