-- ==== Sys2Proof/Machine/Operands.lean ====
section
/-! DEFINITION. The operands: effective and linear addresses, the segment a memory operand uses, the third operand's value
and the write-mask (30_encoding.md R70 to R76, R86, R87). -/

namespace Sys2Proof.Machine

open Sys2Proof

/-- The displacement as a 64-bit value: `disp8` scaled by `n` (8 in an EVEX form, 1 in a VEX form), `disp32` not scaled
(R69, R75). -/
def dispValue (n : Nat) : Disp → Addr
  | .none => 0#64
  | .d8 d => d.signExtend 64 * BitVec.ofNat 64 n
  | .d32 d => d.signExtend 64

/-- The index term: none for number 0100b, else G[index] times 1, 2, 4 or 8 (R72). -/
def indexValue (s : State) (scale : BitVec 2) (index : BitVec 4) : Addr :=
  if index = 4#4 then 0#64 else s.readG index * BitVec.ofNat 64 (2 ^ scale.toNat)

/-- The sum of R72, modulo 2^64; `next` is pc_next. -/
def addressSum (s : State) (n : Nat) (next : Addr) : MemOp → Addr
  | .rip _ _ d => next + d.signExtend 64
  | .base _ r d => s.readG r + dispValue n d
  | .sib sc i b d => s.readG b + indexValue s sc i + dispValue n d
  | .sibNoBase _ sc i d => indexValue s sc i + d.signExtend 64

/-- A 67H prefix stands before. -/
def addr32 : Prefixes → Bool
  | .none => false
  | .seg _ => false
  | .a32 => true
  | .segA32 _ => true
  | .a32Seg _ => true

/-- The segment override, if any. -/
def overrideSeg : Prefixes → Option Seg
  | .none => none
  | .seg g => some g
  | .a32 => none
  | .segA32 g => some g
  | .a32Seg g => some g

/-- The effective address: under 67H the sum modulo 2^32, zero-extended (R72, R73). -/
def effectiveAddr (s : State) (pre : Prefixes) (n : Nat) (next : Addr) (m : MemOp) : Addr :=
  let ea := addressSum s n next m
  if addr32 pre then (ea.setWidth 32).setWidth 64 else ea

/-- The segment base of a memory operand: FS or GS under its override, else 0 (R74). -/
def segmentBase (s : State) (pre : Prefixes) : Addr :=
  match overrideSeg pre with
  | some .fs => s.fsBase
  | some .gs => s.gsBase
  | _ => 0#64

/-- The linear address of a memory operand (R74). -/
def linearAddr (s : State) (pre : Prefixes) (n : Nat) (next : Addr) (m : MemOp) : Addr :=
  segmentBase s pre + effectiveAddr s pre n next m

/-- The base register of R72 is RSP or RBP. -/
def baseIsStack : MemOp → Bool
  | .rip _ _ _ => false
  | .base _ r _ => r == 4#4 || r == 5#4
  | .sib _ _ b _ => b == 4#4 || b == 5#4
  | .sibNoBase _ _ _ _ => false

/-- The operand uses the SS segment: no FS or GS override and base RSP or RBP (R74). -/
def usesSS (pre : Prefixes) (m : MemOp) : Bool :=
  (match overrideSeg pre with
    | some .fs => false
    | some .gs => false
    | _ => true) && baseIsStack m

/-- The third operand's register number in a VEX form: B ++ rm, X ignored (R70). -/
def vexReg (n : BitVec 4) : BitVec 5 := n.setWidth 5

/-- The third operand's register number in an EVEX form: X ++ B ++ rm (R71). -/
def evexReg (x : Bool) (n : BitVec 4) : BitVec 5 := BitVec.ofBool x ++ n

/-- pc_next (10_state.md R20). -/
def State.nextPc (s : State) (len : Nat) : Addr := s.rip + BitVec.ofNat 64 len

/-- SRC3[63:0] of a VEX form: a register's low quadword or the 8 bytes of memory (41 R133 line 3). -/
def vexSrc3 (s : State) (o : VexOps) : Except Stop Quad :=
  match o.src3 with
  | .reg _ n => .ok (s.low (vexReg n))
  | .mem m => readQuad s (usesSS o.pre m) (linearAddr s o.pre 1 (s.nextPc o.length) m)

/-- SRC3[63:0] of an EVEX form (42 R148 line 4). -/
def evexSrc3 (s : State) (o : EvexOps) : Except Stop Quad :=
  match o.src3 with
  | .reg x n => .ok (s.low (evexReg x n))
  | .mem m => readQuad s (usesSS o.pre m) (linearAddr s o.pre 8 (s.nextPc o.length) m)

/-- `kbit` (42 R144, R148 line 3): 1 with no write-mask, else bit 0 of K[aaa]. -/
def maskBit (s : State) (o : EvexOps) : Bool := o.aaa == 0#3 || (s.readK o.aaa).getLsbD 0

/-- Embedded rounding, and with it SAE, is in force: b = 1 on a register form (42 R143, R146). -/
def embeddedRounding (o : EvexOps) : Bool := o.b && o.src3.isReg

/-- The rounding mode of an EVEX form (42 R143). -/
def evexRm (s : State) (o : EvexOps) : RM := if embeddedRounding o then rmOfBits o.ll else s.rm

/-- A masked-off memory operand whose read is suppressed (42 R147). -/
def readSuppressed (s : State) (o : EvexOps) : Bool :=
  !maskBit s o && !o.src3.isReg && s.cfg.maskSuppressesMemFault

end Sys2Proof.Machine
end

