-- ==== Sys2Proof/Machine/Vex.lean ====
section
/-! DEFINITION. The VEX-encoded forms (41_vfnmsub_sd_vex.md). -/

namespace Sys2Proof.Machine

open Sys2Proof

/-- The parts of -(x*y) - z: two multiplicands and a subtrahend (40_numerics.md R101). -/
structure Roles where
  x : Quad
  y : Quad
  z : Quad
deriving DecidableEq, Repr

/-- Which operand plays which part, from DEST, SRC2 and SRC3 (R101). -/
abbrev Parts := Quad → Quad → Quad → Roles

/-- Lines 4 to 8 of ExecVEX (R133), the third operand read. -/
def vexCompute (parts : Parts) (o : VexOps) (s3 : Quad) (s : State) : Result :=
  let p := parts (s.low (vexReg o.dest)) (s.low (vexReg o.src2)) s3
  match fnmsub64 s.cfg.rules p.x p.y p.z s.rm (s.ctl false) with
  | .trap f => fpTrap f s
  | .value res f => complete o.length ((s.orFlags f).writeLow (vexReg o.dest) res)

/-- ExecVEX (R133). -/
def execVex (parts : Parts) (o : VexOps) (s : State) : Result :=
  match admission s with
  | some r => .refused r
  | none =>
    if udVex s then raise .ud s
    else if s.cr0TS then raise .nm s
    else
      match vexSrc3 s o with
      | .error st => stop st s
      | .ok s3 => vexCompute parts o s3 s

/-- VFNMSUB132SD, VEX (R130): -(DEST * SRC3) - SRC2. -/
def execVfnmsub132sdVex (o : VexOps) (s : State) : Result :=
  execVex (fun d s2 s3 => { x := d, y := s3, z := s2 }) o s

/-- VFNMSUB213SD, VEX (R131): -(SRC2 * DEST) - SRC3. -/
def execVfnmsub213sdVex (o : VexOps) (s : State) : Result :=
  execVex (fun d s2 s3 => { x := s2, y := d, z := s3 }) o s

/-- VFNMSUB231SD, VEX (R132): -(SRC2 * SRC3) - DEST. -/
def execVfnmsub231sdVex (o : VexOps) (s : State) : Result :=
  execVex (fun d s2 s3 => { x := s2, y := s3, z := d }) o s

end Sys2Proof.Machine
end

