-- ==== Sys2Proof/Machine/Evex.lean ====
section
/-! DEFINITION. The EVEX-encoded forms (42_vfnmsub_sd_evex.md). -/

namespace Sys2Proof.Machine

open Sys2Proof

/-- Lines 5 to 9 of ExecEVEX (R148) with the mask bit 1: the element is computed. -/
def evexCompute (parts : Parts) (o : EvexOps) (s3 : Quad) (s : State) : Result :=
  let p := parts (s.low o.dest) (s.low o.src2) s3
  match fnmsub64 s.cfg.rules p.x p.y p.z (evexRm s o) (s.ctl (embeddedRounding o)) with
  | .trap f => fpTrap f s
  | .value res f =>
    complete o.length ((if embeddedRounding o then s else s.orFlags f).writeLow o.dest res)

/-- Lines 7 to 9 of ExecEVEX (R148) with the mask bit 0: merging keeps DEST[63:0], zeroing clears it (R144). -/
def evexMaskedOff (o : EvexOps) (s : State) : Result :=
  complete o.length (s.writeLow o.dest (if o.z then 0#64 else s.low o.dest))

/-- ExecEVEX (R148).  The encodings of R85 raise #UD here as in the decoder (R165). -/
def execEvex (parts : Parts) (o : EvexOps) (s : State) : Result :=
  match admission s with
  | some r => .refused r
  | none =>
    if o.reserved || udEvex s then raise .ud s
    else if s.cr0TS then raise .nm s
    else if readSuppressed s o then evexMaskedOff o s
    else
      match evexSrc3 s o with
      | .error st => stop st s
      | .ok s3 => if maskBit s o then evexCompute parts o s3 s else evexMaskedOff o s

/-- VFNMSUB132SD, EVEX (R140): -(DEST * SRC3) - SRC2. -/
def execVfnmsub132sdEvex (o : EvexOps) (s : State) : Result :=
  execEvex (fun d s2 s3 => { x := d, y := s3, z := s2 }) o s

/-- VFNMSUB213SD, EVEX (R141): -(SRC2 * DEST) - SRC3. -/
def execVfnmsub213sdEvex (o : EvexOps) (s : State) : Result :=
  execEvex (fun d s2 s3 => { x := s2, y := d, z := s3 }) o s

/-- VFNMSUB231SD, EVEX (R142): -(SRC2 * SRC3) - DEST. -/
def execVfnmsub231sdEvex (o : EvexOps) (s : State) : Result :=
  execEvex (fun d s2 s3 => { x := s2, y := s3, z := d }) o s

end Sys2Proof.Machine
end

