-- ==== Sys2Proof/Machine/Dispatch.lean ====
section
/-! DEFINITION. exec: one arm per constructor of Instr. -/

namespace Sys2Proof.Machine

open Sys2Proof

def exec (i : Instr) (s : State) : Host.Outcome State Fault Refusal :=
  match i with
  | .vfnmsub132sdVex o => Sys2Proof.Machine.execVfnmsub132sdVex o s
  | .vfnmsub213sdVex o => Sys2Proof.Machine.execVfnmsub213sdVex o s
  | .vfnmsub231sdVex o => Sys2Proof.Machine.execVfnmsub231sdVex o s
  | .vfnmsub132sdEvex o => Sys2Proof.Machine.execVfnmsub132sdEvex o s
  | .vfnmsub213sdEvex o => Sys2Proof.Machine.execVfnmsub213sdEvex o s
  | .vfnmsub231sdEvex o => Sys2Proof.Machine.execVfnmsub231sdEvex o s

end Sys2Proof.Machine
end

