-- ==== Sys2Proof/Machine/Step.lean ====
section
/-! DEFINITION. One step: fetch at the program counter, decode, execute. -/

namespace Sys2Proof.Machine

open Sys2Proof

/-- One step (70_reset_and_hazards.md R192, 30_encoding.md R89): the decoder's answers other than an instruction end the step,
and so does a byte that cannot be fetched where the decoder needs it. -/
def step (s : State) : Host.Outcome State Fault Refusal :=
  match admission s with
  | some r => .refused r
  | none =>
    match decode (fetch s).1 with
    | .insn i _ => exec i s
    | .ud => raise .ud s
    | .notInScope => .refused .notInScope
    | .refuse why => .refused (.badPrefixes why)
    | .truncated => stop (fetch s).2 s

/-- The state with a row of the opcode table stored where `step` fetches its next instruction, zero bytes after it (log 3). -/
def State.withFetchWord (s : State) (nbits w : Nat) : State := placeBytes s (tableInstrBytes nbits w)

end Sys2Proof.Machine
end

