-- ==== Sys2Proof/Safety.lean ====
section
/-! DEFINITION. The terms the statements use: launch premises, what makes a form ready to run, when a memory operand can be
read, what an instruction leaves alone, and the invariant every step keeps. -/

namespace Sys2Proof.Machine

open Sys2Proof

/-- The launch premises (10_state.md R32, 60_exceptions.md R179, D2). -/
structure Admitted (s : State) : Prop where
  mode : s.mode ≠ .mode32
  mxcsr : s.mxcsr.extractLsb' 16 16 = 0#16
  debug : s.debugArmed = false
  singleStep : s.rflagsTF = false

/-- 64-bit mode with what every form needs of the state (70_reset_and_hazards.md R191). -/
structure Ready (s : State) : Prop extends Admitted s where
  mode64 : s.mode = .mode64
  pe : s.cr0PE = true
  osxsave : s.osxsave = true
  avx : s.avxState = true
  ts : s.cr0TS = false

/-- A VEX form does not fault for reasons of the state (R191). -/
structure VexReady (s : State) : Prop extends Ready s where
  fma : s.cfg.fma = true

/-- An EVEX form does not fault for reasons of the state (R191), on an implementation with the MAXVL it requires (D3). -/
structure EvexReady (s : State) : Prop extends Ready s where
  maxvl : s.cfg.maxvl = .w512
  avx512f : s.cfg.avx512f = true
  avx512 : s.avx512State = true

/-- R50 written out again: bits 63 down to VA_BITS - 1 of the address are all equal, VA_BITS being 48 or 57. -/
abbrev Canonical (va : VaBits) (a : Addr) : Prop :=
  ∀ i, i < 64 → (match va with | .va48 => 47 | .va57 => 56) ≤ i → a.getLsbD i = a.getLsbD 63

/-- pc + len is canonical and does not pass 2^64 - 1 (10_state.md R21, D21). -/
def NextOk (s : State) (len : Nat) : Prop :=
  s.rip.toNat + len < 2 ^ 64 ∧ Canonical s.cfg.va (s.rip + BitVec.ofNat 64 len)

/-- Every byte of the quadword at `a` is at a canonical address (20_memory.md R50). -/
def QuadCanonical (s : State) (a : Addr) : Prop := ∀ x ∈ quadAddrs a, Canonical s.cfg.va x

/-- Every byte of the quadword at `a` translates Ok at the current CPL (R49). -/
def QuadTranslates (s : State) (a : Addr) : Prop := ∀ x ∈ quadAddrs a, translate s.xlat x s.cpl = none

/-- The 8 bytes at `a` are read without a fault (R45, R47, R48, R49, R50). -/
structure Readable (s : State) (a : Addr) : Prop where
  canonical : QuadCanonical s a
  translates : QuadTranslates s a
  aligned : (s.cr0AM = true ∧ s.rflagsAC = true ∧ s.cpl = 3#2) → a.toNat % 8 = 0
  ordinary : ∀ x ∈ quadAddrs a, ∀ r ∈ s.devices, ¬(r.first ≤ x ∧ x ≤ r.last)
  present : ∀ x ∈ quadAddrs a, memByte s.mem x.toNat ≠ none

/-- The five masks of the exceptions the encodings can signal are all 1 (10_state.md R30). -/
structure AllMasked (s : State) : Prop where
  im : s.mxcsr.getLsbD 7 = true
  dm : s.mxcsr.getLsbD 8 = true
  om : s.mxcsr.getLsbD 10 = true
  um : s.mxcsr.getLsbD 11 = true
  pm : s.mxcsr.getLsbD 12 = true

/-- The linear address of the memory operand of a VEX form, `disp8` not scaled (30_encoding.md R74, R75). -/
def vexAddr (s : State) (o : VexOps) (m : MemOp) : Addr := linearAddr s o.pre 1 (s.nextPc o.length) m

/-- The linear address of the memory operand of an EVEX form, `disp8` scaled by 8 (R74, R75). -/
def evexAddr (s : State) (o : EvexOps) (m : MemOp) : Addr := linearAddr s o.pre 8 (s.nextPc o.length) m

/-- The third operand of a VEX form is readable, with value `q`. -/
def VexOperand (s : State) (o : VexOps) (q : Quad) : Prop :=
  match o.src3 with
  | .reg _ n => q = s.low (vexReg n)
  | .mem m => Readable s (vexAddr s o m) ∧ q = quadValue s.mem (vexAddr s o m)

/-- The third operand of an EVEX form is readable, with value `q`. -/
def EvexOperand (s : State) (o : EvexOps) (q : Quad) : Prop :=
  match o.src3 with
  | .reg x n => q = s.low (evexReg x n)
  | .mem m => Readable s (evexAddr s o m) ∧ q = quadValue s.mem (evexAddr s o m)

/-- The operands of a VEX constructor. -/
def vexOps? : Instr → Option VexOps
  | .vfnmsub132sdVex o => some o
  | .vfnmsub213sdVex o => some o
  | .vfnmsub231sdVex o => some o
  | .vfnmsub132sdEvex _ => none
  | .vfnmsub213sdEvex _ => none
  | .vfnmsub231sdEvex _ => none

/-- The operands of an EVEX constructor. -/
def evexOps? : Instr → Option EvexOps
  | .vfnmsub132sdVex _ => none
  | .vfnmsub213sdVex _ => none
  | .vfnmsub231sdVex _ => none
  | .vfnmsub132sdEvex o => some o
  | .vfnmsub213sdEvex o => some o
  | .vfnmsub231sdEvex o => some o

/-- The number of the destination register. -/
def destReg : Instr → BitVec 5
  | .vfnmsub132sdVex o => vexReg o.dest
  | .vfnmsub213sdVex o => vexReg o.dest
  | .vfnmsub231sdVex o => vexReg o.dest
  | .vfnmsub132sdEvex o => o.dest
  | .vfnmsub213sdEvex o => o.dest
  | .vfnmsub231sdEvex o => o.dest

/-- The third operand. -/
def src3Of : Instr → Src3
  | .vfnmsub132sdVex o => o.src3
  | .vfnmsub213sdVex o => o.src3
  | .vfnmsub231sdVex o => o.src3
  | .vfnmsub132sdEvex o => o.src3
  | .vfnmsub213sdEvex o => o.src3
  | .vfnmsub231sdEvex o => o.src3

/-- The legacy prefixes. -/
def prefixesOf : Instr → Prefixes
  | .vfnmsub132sdVex o => o.pre
  | .vfnmsub213sdVex o => o.pre
  | .vfnmsub231sdVex o => o.pre
  | .vfnmsub132sdEvex o => o.pre
  | .vfnmsub213sdEvex o => o.pre
  | .vfnmsub231sdEvex o => o.pre

/-- The table of R101: x, y and z of each form, from DEST, SRC2 and SRC3. -/
def rolesOf (i : Instr) (d s2 s3 : Quad) : Roles :=
  match i with
  | .vfnmsub132sdVex _ => { x := d, y := s3, z := s2 }
  | .vfnmsub213sdVex _ => { x := s2, y := d, z := s3 }
  | .vfnmsub231sdVex _ => { x := s2, y := s3, z := d }
  | .vfnmsub132sdEvex _ => { x := d, y := s3, z := s2 }
  | .vfnmsub213sdEvex _ => { x := s2, y := d, z := s3 }
  | .vfnmsub231sdEvex _ => { x := s2, y := s3, z := d }

/-- No #UD and no #NM for reasons of the state or of the encoding (R191, 30_encoding.md R85). -/
def FormReady (i : Instr) (s : State) : Prop :=
  (∀ o, vexOps? i = some o → VexReady s) ∧ (∀ o, evexOps? i = some o → EvexReady s ∧ o.reserved = false)

/-- The mask bit of an EVEX form is 1: no write-mask, or bit 0 of the write-mask register (42 R144). -/
def MaskOn (s : State) (o : EvexOps) : Prop := o.aaa = 0#3 ∨ (s.readK o.aaa).getLsbD 0 = true

/-- The mask bit of an EVEX form is 0 (42 R144). -/
def MaskOff (s : State) (o : EvexOps) : Prop := o.aaa ≠ 0#3 ∧ (s.readK o.aaa).getLsbD 0 = false

/-- The form has the memory operand `m` and makes its read: not where the write-mask turns the element off and the parameter
suppresses the read (42 R147). -/
def ReadsMemory (i : Instr) (s : State) (m : MemOp) : Prop :=
  src3Of i = .mem m ∧ ∀ o, evexOps? i = some o → MaskOn s o ∨ s.cfg.maskSuppressesMemFault = false

/-- The linear address of the memory operand `m` of a form. -/
def memAddr (i : Instr) (s : State) (m : MemOp) : Addr :=
  match i with
  | .vfnmsub132sdVex o => vexAddr s o m
  | .vfnmsub213sdVex o => vexAddr s o m
  | .vfnmsub231sdVex o => vexAddr s o m
  | .vfnmsub132sdEvex o => evexAddr s o m
  | .vfnmsub213sdEvex o => evexAddr s o m
  | .vfnmsub231sdEvex o => evexAddr s o m

/-- The bytes `bs` stand where the next instruction is fetched and each can be fetched (R21, R48, R49, R50). -/
def StoredAtPc (s : State) (bs : List Byte) : Prop :=
  s.fetchBase.toNat + bs.length ≤ 2 ^ 64 ∧
  ∀ k (hk : k < bs.length),
    Canonical s.cfg.va (s.fetchBase + BitVec.ofNat 64 k) ∧
    translate s.xlat (s.fetchBase + BitVec.ofNat 64 k) s.cpl = none ∧
    (∀ r ∈ s.devices, ¬(r.first ≤ s.fetchBase + BitVec.ofNat 64 k ∧ s.fetchBase + BitVec.ofNat 64 k ≤ r.last)) ∧
    memByte s.mem (s.fetchBase + BitVec.ofNat 64 k).toNat = some bs[k]

/-- -(val(x) * val(y)) - val(z), the exact value of finite operands (40_numerics.md R100). -/
def exactValue (x y z : Quad) : Rat := -(val x * val y) - val z

/-- `t` is `s` but for vector registers, MXCSR and RIP: every other piece of state is as before. -/
structure SameElse (s t : State) : Prop where
  k : t.k = s.k
  g : t.g = s.g
  rflags : t.rflags = s.rflags
  cr0 : t.cr0 = s.cr0
  cr2 : t.cr2 = s.cr2
  cr4 : t.cr4 = s.cr4
  xcr0 : t.xcr0 = s.xcr0
  csBase : t.csBase = s.csBase
  fsBase : t.fsBase = s.fsBase
  gsBase : t.gsBase = s.gsBase
  cpl : t.cpl = s.cpl
  mode : t.mode = s.mode
  mem : ∀ a, memByte t.mem a = memByte s.mem a
  xlat : t.xlat = s.xlat
  devices : t.devices = s.devices
  debugArmed : t.debugArmed = s.debugArmed
  cfg : t.cfg = s.cfg

/-! ## MXCSR's layout, written out again from the spec's tables, so that a statement fixes it -/

/-- The rounding mode of a 2-bit value with these bits 1 and 0 (40_numerics.md R104, 10_state.md R30). -/
def roundingMode (bit1 bit0 : Bool) : RM :=
  match bit1, bit0 with
  | false, false => .rn
  | false, true => .rd
  | true, false => .ru
  | true, true => .rz

/-- The rounding mode in MXCSR[14:13] (R30). -/
def mxcsrRounding (m : BitVec 32) : RM := roundingMode (m.getLsbD 14) (m.getLsbD 13)

/-- The control bits by R30's table. -/
def mxcsrControl (m : BitVec 32) (sae : Bool) : Ctl :=
  { daz := m.getLsbD 6
    im := m.getLsbD 7
    dm := m.getLsbD 8
    om := m.getLsbD 10
    um := m.getLsbD 11
    pm := m.getLsbD 12
    ftz := m.getLsbD 15
    sae := sae }

/-- `m'` is `m` with the flags `f` ORed in, bit by bit by R30's table (40_numerics.md R118). -/
structure FlagsAdded (m m' : BitVec 32) (f : Flags) : Prop where
  ie : m'.getLsbD 0 = (m.getLsbD 0 || f.ie)
  de : m'.getLsbD 1 = (m.getLsbD 1 || f.de)
  ze : m'.getLsbD 2 = m.getLsbD 2
  oe : m'.getLsbD 3 = (m.getLsbD 3 || f.oe)
  ue : m'.getLsbD 4 = (m.getLsbD 4 || f.ue)
  pe : m'.getLsbD 5 = (m.getLsbD 5 || f.pe)
  rest : m'.extractLsb' 6 26 = m.extractLsb' 6 26

/-! ## Overflow and tininess after rounding to 53 bits, as bounds on the exact value (40_numerics.md R113 to R115) -/

/-- MAXF = (2^53 - 1) * 2^971 (R102). -/
def maxFinite : Rat := (2 ^ 53 - 1) * 2 ^ 971

/-- The rounded magnitude exceeds MAXF (R114). -/
def OverflowsAt (rm : RM) (v : Rat) : Prop :=
  match rm with
  | .rn => 2 ^ 1024 - 2 ^ 970 ≤ |v|
  | .rd => 2 ^ 1024 ≤ v ∨ v < -maxFinite
  | .ru => maxFinite < v ∨ v ≤ -2 ^ 1024
  | .rz => 2 ^ 1024 ≤ |v|

/-- The largest 53-bit number below 2^-1022. -/
def belowNormal : Rat := 1 / 2 ^ 1022 - 1 / 2 ^ 1075

/-- The magnitude rounded to 53 bits with unbounded exponent is below 2^-1022 (R115). -/
def TinyAt (rm : RM) (v : Rat) : Prop :=
  v ≠ 0 ∧
  match rm with
  | .rn => |v| < 1 / 2 ^ 1022 - 1 / 2 ^ 1076
  | .rd => -belowNormal ≤ v ∧ v < 1 / 2 ^ 1022
  | .ru => -(1 / 2 ^ 1022) < v ∧ v ≤ belowNormal
  | .rz => |v| < 1 / 2 ^ 1022

/-- The value needs no more than 53 significant bits: `inexact1` of R113 is false. -/
def Fits53 (v : Rat) : Prop := ∃ n e : Int, |n| < 2 ^ 53 ∧ v = n * (2 : Rat) ^ e

/-- An operand after R107: under DAZ a denormal keeps its sign bit alone. -/
def afterDaz (daz : Bool) (u : Quad) : Quad :=
  if daz = true ∧ isDenormal u = true then u &&& 0x8000000000000000#64 else u

/-- R109's combinations: an infinity times a zero, or an infinite product and an infinite z whose terms -(x*y) and -z have
opposite signs. -/
def InvalidTerms (x y z : Quad) : Prop :=
  (isInf x = true ∧ isZero y = true) ∨ (isZero x = true ∧ isInf y = true) ∨
  ((isInf x = true ∨ isInf y = true) ∧ isInf z = true ∧ (!(x.getLsbD 63 ^^ y.getLsbD 63)) ≠ !z.getLsbD 63)

/-- IE is signalled: an SNaN among the operands (R108), or no NaN and one of R109's combinations after DAZ. -/
def SignalsIe (daz : Bool) (x y z : Quad) : Prop :=
  (isSnan x = true ∨ isSnan y = true ∨ isSnan z = true) ∨
  ((isNan x = false ∧ isNan y = false ∧ isNan z = false) ∧
    InvalidTerms (afterDaz daz x) (afterDaz daz y) (afterDaz daz z))

/-- DE is signalled and traps, before anything is computed (R111, R117). -/
def DeTraps (p : NumRules) (x y z : Quad) (c : Ctl) : Prop :=
  signalsDe p.de x y z = true ∧ c.dm = false ∧ c.sae = false

/-! ## Addresses, written out again from R69, R72 and R75 -/

/-- A displacement as a number of bytes, `disp8` times `n`. -/
def dispOffset (n : Int) : Disp → Int
  | .none => 0
  | .d8 d => n * d.toInt
  | .d32 d => d.toInt

/-- What `disp8` is multiplied by: 1 in a VEX form, 8 in an EVEX form (R75). -/
def disp8Scale (i : Instr) : Int := if (vexOps? i).isSome then 1 else 8

/-- FS.base or GS.base under its override, else 0 (R74). -/
def overrideBase (s : State) (pre : Prefixes) : Addr :=
  if pre = .seg .fs ∨ pre = .segA32 .fs ∨ pre = .a32Seg .fs then s.fsBase
  else if pre = .seg .gs ∨ pre = .segA32 .gs ∨ pre = .a32Seg .gs then s.gsBase
  else 0#64

/-! ## What an instruction leaves -/

/-- `t` is `s` after an instruction that delivers `q` in DEST[63:0], keeps DEST[127:64], zeroes the bits above, ORs `f` into
MXCSR, moves RIP past the instruction's `len` bytes, and leaves everything else alone (41 R133, 42 R148). -/
structure Delivers (s t : State) (dest : BitVec 5) (len : Nat) (q : Quad) (f : Flags) : Prop extends SameElse s t where
  low : (t.readV dest).extractLsb' 0 64 = q
  hi : (t.readV dest).extractLsb' 64 64 = (s.readV dest).extractLsb' 64 64
  upper : (t.readV dest).extractLsb' 128 384 = 0#384
  others : ∀ i, i ≠ dest → t.readV i = s.readV i
  mxcsr : FlagsAdded s.mxcsr t.mxcsr f
  rip : t.rip = s.rip + BitVec.ofNat 64 len

/-- The outcome with every state in it changed by `h`. -/
def mapResult (h : State → State) : Result → Result
  | .next t => .next (h t)
  | .fault (.raised x t) => .fault (.raised x (h t))
  | .fault (.absentByte a t) => .fault (.absentByte a (h t))
  | .refused r => .refused r

/-- The invariant: the memory keeps its canonical form, MXCSR's reserved bits are zero (R32), no vector register has bits
above MAXVL (R10), none beyond V[15] is used without AVX512F (D24), no mask register has bits above KW (R13), the
parameters are admitted, and RIP is canonical (R21). -/
structure Inv (s : State) : Prop where
  mem : Memory.wf s.mem
  mxcsr : s.mxcsr.extractLsb' 16 16 = 0#16
  v : ∀ i, (s.readV i).toNat < 2 ^ maxvlBits s.cfg.maxvl
  high : s.cfg.avx512f = false → ∀ i : BitVec 5, 16 ≤ i.toNat → s.readV i = 0#512
  k : ∀ j, (s.readK j).toNat < 2 ^ s.cfg.kw
  config : s.cfg.wf = true
  rip : Canonical s.cfg.va s.rip

end Sys2Proof.Machine
end

