-- ==== Sys2Proof/Certificates/Slice0/Obligations.lean ====
section
/-! DEFINITION. The statements for the provers. -/

open Sys2Proof Sys2Proof.Machine

/-! ## Encoding -/

/-- 30_encoding.md R62, R65, R67 to R71, R89: decoding the bytes of a well-formed instruction gives it back, whatever
follows them. -/
def Obligations.DecodeOfEncode : Prop :=
  ∀ (i : Instr) (rest : List Byte), i.wf = true → decode (encode i ++ rest) = .insn i rest

/-- R89: what the decoder reads as an instruction is the encoding of that instruction and nothing else; no bit is dropped. -/
def Obligations.EncodeOfDecode : Prop :=
  ∀ (bs rest : List Byte) (i : Instr), decode bs = .insn i rest → i.wf = true ∧ bs = encode i ++ rest

/-- R64, R66 and opcode_table.json: without prefixes, the first bytes of a VEX form AND its mask are its match, and those of
an EVEX form likewise. -/
def Obligations.EncodingMatchesTableRow : Prop :=
  (∀ (o : VexOps) (op : Byte), o.pre = .none →
    ∃ b0 b1 b2 rest, o.encode op = b0 :: b1 :: b2 :: op :: rest ∧
      (b0 ++ b1 ++ b2 ++ op) &&& 0xFF1F83FF#32 = 0xC4#8 ++ 0x02#8 ++ 0x81#8 ++ op) ∧
  (∀ (o : EvexOps) (op : Byte), o.pre = .none →
    ∃ b0 b1 b2 b3 rest, o.encode op = b0 :: b1 :: b2 :: b3 :: op :: rest ∧
      (b0 ++ b1 ++ b2 ++ b3 ++ op) &&& 0xFF0F8700FF#40 = 0x62#8 ++ 0x02#8 ++ 0x85#8 ++ 0x00#8 ++ op)

/-- Some words of 95_test_vectors.md L2.15 (E4, E12, E16, E26, E31) decode to the instructions they stand for. -/
def Obligations.SampleWordsDecode : Prop :=
  decode [0xC4#8, 0x42#8, 0x89#8, 0x9F#8, 0xEF#8] =
    .insn (.vfnmsub132sdVex { pre := .none, l := false, dest := 13#4, src2 := 14#4, src3 := .reg false 15#4 }) [] ∧
  decode [0xC4#8, 0xE2#8, 0xE9#8, 0xBF#8, 0x8C#8, 0xCB#8, 0x00#8, 0x10#8, 0x00#8, 0x00#8] =
    .insn (.vfnmsub231sdVex
      { pre := .none, l := false, dest := 1#4, src2 := 2#4, src3 := .mem (.sib 3#2 1#4 3#4 (.d32 0x1000#32)) }) [] ∧
  decode [0x64#8, 0xC4#8, 0xE2#8, 0xC1#8, 0x9F#8, 0x77#8, 0x10#8] =
    .insn (.vfnmsub132sdVex
      { pre := .seg .fs, l := false, dest := 6#4, src2 := 7#4, src3 := .mem (.base false 7#4 (.d8 0x10#8)) }) [] ∧
  decode [0x62#8, 0xF2#8, 0xED#8, 0xFB#8, 0x9F#8, 0xCB#8] =
    .insn (.vfnmsub132sdEvex
      { pre := .none
        z := true
        ll := 3#2
        b := true
        aaa := 3#3
        dest := 1#5
        src2 := 2#5
        src3 := .reg false 3#4 }) [] ∧
  decode [0x62#8, 0x82#8, 0xDD#8, 0x04#8, 0xBF#8, 0x6C#8, 0x78#8, 0x08#8] =
    .insn (.vfnmsub231sdEvex
      { pre := .none
        z := false
        ll := 0#2
        b := false
        aaa := 4#3
        dest := 21#5
        src2 := 20#5
        src3 := .mem (.sib 1#2 15#4 8#4 (.d8 8#8)) }) []

/-- R61: LOCK, 66H, F2H or F3H before an encoding, or a REX byte immediately before its VEX or EVEX prefix, gives #UD. -/
def Obligations.ForbiddenPrefixIsUndefined : Prop :=
  ∀ (bs rest : List Byte) (i : Instr) (b : Byte), decode bs = .insn i rest →
    ((b = 0xF0#8 ∨ b = 0x66#8 ∨ b = 0xF2#8 ∨ b = 0xF3#8) → decode (b :: bs) = .ud) ∧
    (0x40#8 ≤ b ∧ b ≤ 0x4F#8 → prefixesOf i = .none → decode (b :: bs) = .ud)

/-- R61, D27: a second segment override, a second 67H, and a REX byte with another legacy byte after it are refused. -/
def Obligations.RepeatedPrefixesRefused : Prop :=
  ∀ (g h : Seg) (r b : Byte) (bs : List Byte),
    decode (g.byte :: h.byte :: bs) = .refuse .twoSegmentPrefixes ∧
    decode (g.byte :: 0x67#8 :: h.byte :: bs) = .refuse .twoSegmentPrefixes ∧
    decode (0x67#8 :: 0x67#8 :: bs) = .refuse .twoAddressSizePrefixes ∧
    decode (0x67#8 :: g.byte :: 0x67#8 :: bs) = .refuse .twoAddressSizePrefixes ∧
    (0x40#8 ≤ r ∧ r ≤ 0x4F#8 →
      (b = g.byte ∨ b = 0x67#8 ∨ b = 0x66#8 ∨ b = 0xF2#8 ∨ b = 0xF3#8 ∨ b = 0xF0#8 ∨ (0x40#8 ≤ b ∧ b ≤ 0x4F#8)) →
      decode (r :: b :: bs) = .refuse .rexNotLast)

/-- R85: the three reserved EVEX encodings (zeroing with no mask, b = 1 on a memory form, L'L = 11 with b = 0) give #UD
under each of the three opcodes. -/
def Obligations.ReservedEvexIsUndefined : Prop :=
  ∀ (o : EvexOps) (op : Byte) (rest : List Byte), (op = 0x9F#8 ∨ op = 0xAF#8 ∨ op = 0xBF#8) → o.src3.wf = true →
    ((o.z = true ∧ o.aaa = 0#3) ∨ (o.b = true ∧ ∃ m, o.src3 = .mem m) ∨ (o.ll = 3#2 ∧ o.b = false)) →
    decode (o.encode op ++ rest) = .ud

/-- R63, R84, R85, K1.4, K1.5: other map, W, pp or opcode after C4H, reserved bits or other fields after 62H, and C5H are
not in scope. -/
def Obligations.OtherEncodingsNotInScope : Prop :=
  ∀ (b1 b2 b3 op : Byte) (rest : List Byte),
    ((b1.extractLsb' 0 5 ≠ 2#5 ∨ b2.getLsbD 7 = false ∨ b2.extractLsb' 0 2 ≠ 1#2 ∨
        (op ≠ 0x9F#8 ∧ op ≠ 0xAF#8 ∧ op ≠ 0xBF#8)) →
      decode (0xC4#8 :: b1 :: b2 :: op :: rest) = .notInScope) ∧
    ((b1.extractLsb' 0 2 ≠ 2#2 ∨ b1.extractLsb' 2 2 ≠ 0#2 ∨ b2.getLsbD 7 = false ∨ b2.getLsbD 2 = false ∨
        b2.extractLsb' 0 2 ≠ 1#2 ∨ (op ≠ 0x9F#8 ∧ op ≠ 0xAF#8 ∧ op ≠ 0xBF#8)) →
      decode (0x62#8 :: b1 :: b2 :: b3 :: op :: rest) = .notInScope) ∧
    decode (0xC5#8 :: rest) = .notInScope

/-! ## The step, and reset -/

/-- A step runs the decoded instruction: where the bytes of a well-formed instruction stand at the program counter, step is
exec of it, and nothing is added around exec (R192, R89).  In real-address and virtual-8086 mode this rests on the model's
choices: the decoder of 64-bit mode applied there (log 4, unsafe) and the fetch at CS.base + RIP (log 24). -/
def Obligations.StepRunsStoredInstruction : Prop :=
  ∀ (s : State) (i : Instr), Admitted s → i.wf = true → StoredAtPc s (encode i) → step s = exec i s

/-- R85, R160: a step at a reserved EVEX encoding raises #UD and changes nothing.  In real-address and virtual-8086 mode
this rests on the model's choices: reading the bytes as an EVEX encoding there (log 4, unsafe) and the fetch at
CS.base + RIP (log 24). -/
def Obligations.StepAtReservedEncodingRaises : Prop :=
  ∀ (s : State) (o : EvexOps) (op : Byte), Admitted s → (op = 0x9F#8 ∨ op = 0xAF#8 ∨ op = 0xBF#8) →
    o.src3.wf = true → o.reserved = true → StoredAtPc s (o.encode op) → step s = .fault (.raised .ud s)

/-- R21, D21: a step whose first byte is at a non-canonical address is refused; when the check is made is the model's choice
(log 10), and so is, outside 64-bit mode, the fetch at CS.base + RIP (log 24). -/
def Obligations.StepOutsideCanonicalRefused : Prop :=
  ∀ s : State, Admitted s → ¬ Canonical s.cfg.va s.fetchBase → step s = .refused .pcLeavesCanonical

/-- The values that R39 gives for reset (RDX, which R39 leaves to the implementation, is not stated). -/
def Obligations.ResetValues : Prop :=
  (∀ i, State.reset.readV i = 0#512) ∧ (∀ j, State.reset.readK j = 0#64) ∧
  State.reset.mxcsr = 0x00001F80#32 ∧ (∀ r, r ≠ 2#4 → State.reset.readG r = 0#64) ∧
  State.reset.rip = 0x0000FFF0#64 ∧ State.reset.csBase = 0xFFFF0000#64 ∧ State.reset.mode = .real ∧
  State.reset.fetchBase = 0xFFFFFFF0#64 ∧
  State.reset.rflags = 0x00000002#64 ∧ State.reset.cr0 = 0x60000010#64 ∧ State.reset.cr4 = 0#64 ∧
  State.reset.xcr0 = 1#64 ∧ State.reset.fsBase = 0#64 ∧ State.reset.gsBase = 0#64 ∧ State.reset.cpl = 0#2

/-- R190: in the reset state every one of the six encodings raises #UD.  The second clause, that the first step does so once
the bytes are stored, rests on the model's choices: the bytes placed at the reset vector (log 3), the decoder of 64-bit mode
applied in real-address mode (log 4, unsafe), and the fetch at CS.base + RIP (log 24). -/
def Obligations.ResetRaisesUndefined : Prop :=
  ∀ i : Instr, exec i State.reset = .fault (.raised .ud State.reset) ∧
    (i.wf = true → step (placeBytes State.reset (encode i)) = .fault (.raised .ud (placeBytes State.reset (encode i))))

/-- The invariant holds at reset, where the parameters are the model's choice (log 1). -/
def Obligations.InvariantAtReset : Prop := Inv State.reset

/-- Every step keeps the invariant: canonical memory, MXCSR[31:16] = 0 (R32), no register bits above MAXVL (R10) or KW
(R13), V[16..31] unused without AVX512F (D24), admitted parameters, RIP canonical (R21). -/
def Obligations.StepKeepsInvariant : Prop := ∀ s t : State, Inv s → step s = .next t → Inv t

/-! ## The fused operation -/

/-- R102: the classes of a pattern by its fields u[62:52] and u[51:0], and the value of a finite one. -/
def Obligations.BinaryValue : Prop :=
  ∀ u : Quad,
    let E : Nat := u.toNat / 2 ^ 52 % 2 ^ 11
    let F : Nat := u.toNat % 2 ^ 52
    (isZero u = true ↔ E = 0 ∧ F = 0) ∧ (isDenormal u = true ↔ E = 0 ∧ F ≠ 0) ∧ (isFinite u = true ↔ E ≠ 2047) ∧
    (isInf u = true ↔ E = 2047 ∧ F = 0) ∧ (isNan u = true ↔ E = 2047 ∧ F ≠ 0) ∧
    (isSnan u = true ↔ E = 2047 ∧ F ≠ 0 ∧ F < 2 ^ 51) ∧
    (E ≠ 2047 →
      val u = (if 2 ^ 63 ≤ u.toNat then -1 else 1) * (if E = 0 then (F : Rat) else 2 ^ 52 + F) *
        (2 : Rat) ^ ((if E = 0 then 1 else (E : Int)) - 1075))

/-- R107: under DAZ each denormal operand acts as the zero of the same sign, and neither a value nor a trap carries DE. -/
def Obligations.DazReplacesDenormals : Prop :=
  ∀ (p : NumRules) (x y z : Quad) (rm : RM) (c : Ctl), c.daz = true →
    fnmsub64 p x y z rm c =
      fnmsub64 p (if isDenormal x then x &&& 0x8000000000000000#64 else x)
        (if isDenormal y then y &&& 0x8000000000000000#64 else y)
        (if isDenormal z then z &&& 0x8000000000000000#64 else z) rm { c with daz := false } ∧
    (∀ res f, fnmsub64 p x y z rm c = .value res f → f.de = false) ∧
    (p.trap ≠ .anyFlags → ∀ f, fnmsub64 p x y z rm c = .trap f → f.de = false)

/-- R108 with nan_rule at its default: the first NaN of x, y, z, quieted; IE alone is signalled, and only by an SNaN. -/
def Obligations.NanOperandReturned : Prop :=
  ∀ (p : NumRules) (x y z : Quad) (rm : RM) (c : Ctl), p.nan = .firstOperand → p.trap ≠ .anyFlags →
    (isNan x = true ∨ isNan y = true ∨ isNan z = true) →
    ((isSnan x = false ∧ isSnan y = false ∧ isSnan z = false) →
      fnmsub64 p x y z rm c = .value (if isNan x then quiet x else if isNan y then quiet y else quiet z) {}) ∧
    ((isSnan x = true ∨ isSnan y = true ∨ isSnan z = true) →
      fnmsub64 p x y z rm c =
        if c.im = true ∨ c.sae = true then
          .value (if isNan x then quiet x else if isNan y then quiet y else quiet z) { ie := true }
        else .trap { ie := true })

/-- R109: infinity times zero, or infinite terms of opposite signs, signal IE and no DE; masked, QNAN_INDEF.  With a value
or with a trap, IE is signalled by these and by an SNaN (R108), and by nothing else. -/
def Obligations.InvalidCombination : Prop :=
  ∀ (p : NumRules) (x y z : Quad) (rm : RM) (c : Ctl),
    (∀ res f, fnmsub64 p x y z rm c = .value res f → (f.ie = true ↔ SignalsIe c.daz x y z)) ∧
    (p.trap ≠ .anyFlags →
      (∀ f, fnmsub64 p x y z rm c = .trap f → (f.ie = true ↔ SignalsIe c.daz x y z)) ∧
      (isNan x = false → isNan y = false → isNan z = false →
        InvalidTerms (afterDaz c.daz x) (afterDaz c.daz y) (afterDaz c.daz z) →
        fnmsub64 p x y z rm c =
          if c.im = true ∨ c.sae = true then .value 0xFFF8000000000000#64 { ie := true } else .trap { ie := true }))

/-- R111, R117 with de_rule at its default: a denormal operand signals DE, with a value or with a trap, exactly where no NaN
and no invalid combination came first; with DM = 0 and no SAE it is a trap with DE alone, whatever the other masks. -/
def Obligations.DenormalOperandSignals : Prop :=
  ∀ (p : NumRules) (x y z : Quad) (rm : RM) (c : Ctl), c.daz = false → p.de = .anyDenormal →
    let signalled : Prop := (isDenormal x = true ∨ isDenormal y = true ∨ isDenormal z = true) ∧
      isNan x = false ∧ isNan y = false ∧ isNan z = false ∧ ¬ InvalidTerms x y z
    (∀ res f, fnmsub64 p x y z rm c = .value res f → (f.de = true ↔ signalled)) ∧
    (p.trap ≠ .anyFlags → ∀ f, fnmsub64 p x y z rm c = .trap f → (f.de = true ↔ signalled)) ∧
    (p.trap ≠ .anyFlags → signalled → c.dm = false → c.sae = false →
      fnmsub64 p x y z rm c = .trap { de := true })

/-- R110: an infinite product gives the infinity of sign sp, else an infinite z gives z with its sign complemented; no OE
and no PE. -/
def Obligations.InfiniteOperands : Prop :=
  ∀ (p : NumRules) (x y z : Quad) (rm : RM) (c : Ctl) (res : Quad) (f : Flags), c.daz = false →
    isNan x = false → isNan y = false → isNan z = false → ¬ InvalidTerms x y z →
    fnmsub64 p x y z rm c = .value res f →
    ((isInf x = true ∨ isInf y = true) →
      res = (if x.getLsbD 63 ^^ y.getLsbD 63 then 0x7FF0000000000000#64 else 0xFFF0000000000000#64) ∧
      f.oe = false ∧ f.pe = false) ∧
    (isInf x = false → isInf y = false → isInf z = true →
      res = z ^^^ 0x8000000000000000#64 ∧ f.oe = false ∧ f.pe = false)

/-- R112: an exact zero result: the product's sign where both terms are zeros of one sign, else -0 in RD and +0 in the other
modes; no exception but the DE of R111. -/
def Obligations.ExactZeroResult : Prop :=
  ∀ (p : NumRules) (x y z : Quad) (rm : RM) (c : Ctl) (res : Quad) (f : Flags), c.daz = false →
    isFinite x = true → isFinite y = true → isFinite z = true → exactValue x y z = 0 →
    fnmsub64 p x y z rm c = .value res f →
    res = (if (isZero x = true ∨ isZero y = true) ∧ isZero z = true ∧
          (!(x.getLsbD 63 ^^ y.getLsbD 63)) = !z.getLsbD 63 then
        (if x.getLsbD 63 ^^ y.getLsbD 63 then 0#64 else 0x8000000000000000#64)
      else if rm = .rd then 0x8000000000000000#64 else 0#64) ∧
    f.ie = false ∧ f.oe = false ∧ f.ue = false ∧ f.pe = false

/-- R104: an exact value that is representable is returned unchanged in every mode, with no exception but DE. -/
def Obligations.RepresentableUnchanged : Prop :=
  ∀ (p : NumRules) (x y z w : Quad) (rm : RM) (c : Ctl), c.daz = false →
    isFinite x = true → isFinite y = true → isFinite z = true → isFinite w = true →
    val w = exactValue x y z → exactValue x y z ≠ 0 →
    (isDenormal w = true → c.um = true ∧ c.ftz = false) → c.dm = true →
    fnmsub64 p x y z rm c = .value w { de := signalsDe p.de x y z }

/-- R103, R104, R113, R115: rounding to nearest is correct: no finite number is nearer to the exact value than the finite
result, and of two equally near the one with an even last bit is returned.  FTZ = 1 changes this for tiny results alone. -/
def Obligations.RoundsToNearestEven : Prop :=
  ∀ (p : NumRules) (x y z res : Quad) (c : Ctl) (f : Flags), c.daz = false →
    (c.ftz = true → ¬ TinyAt .rn (exactValue x y z)) →
    isFinite x = true → isFinite y = true → isFinite z = true →
    fnmsub64 p x y z .rn c = .value res f → isFinite res = true →
    (∀ w, isFinite w = true → |val res - exactValue x y z| ≤ |val w - exactValue x y z|) ∧
    (∀ w, isFinite w = true → val w ≠ val res →
      |val w - exactValue x y z| = |val res - exactValue x y z| → res.getLsbD 0 = false)

/-- R103, R104, R113, R115: the directed modes are correct: RD gives the greatest finite number not above the exact value,
RU the least not below, RZ the one of greatest magnitude not beyond it.  FTZ = 1 changes this for tiny results alone. -/
def Obligations.RoundsDirected : Prop :=
  ∀ (p : NumRules) (x y z res : Quad) (rm : RM) (c : Ctl) (f : Flags), c.daz = false →
    (c.ftz = true → ¬ TinyAt rm (exactValue x y z)) →
    isFinite x = true → isFinite y = true → isFinite z = true →
    fnmsub64 p x y z rm c = .value res f → isFinite res = true →
    (rm = .rd → val res ≤ exactValue x y z ∧
      ∀ w, isFinite w = true → val w ≤ exactValue x y z → val w ≤ val res) ∧
    (rm = .ru → exactValue x y z ≤ val res ∧
      ∀ w, isFinite w = true → exactValue x y z ≤ val w → val res ≤ val w) ∧
    (rm = .rz → |val res| ≤ |exactValue x y z| ∧ 0 ≤ val res * exactValue x y z ∧
      ∀ w, isFinite w = true → |val w| ≤ |exactValue x y z| → |val w| ≤ |val res|)

/-- R113, R114, R117: overflow occurs exactly beyond each mode's bound; the masked result is the table's, with OE and PE;
with OM = 0 and no SAE it traps with OE, unless DE trapped first. -/
def Obligations.OverflowBoundAndResult : Prop :=
  ∀ (p : NumRules) (x y z : Quad) (rm : RM) (c : Ctl), c.daz = false →
    isFinite x = true → isFinite y = true → isFinite z = true →
    (∀ res f, fnmsub64 p x y z rm c = .value res f →
      (f.oe = true ↔ OverflowsAt rm (exactValue x y z)) ∧
      (f.oe = true → f.pe = true ∧
        res =
          match rm with
          | .rn => if 0 < exactValue x y z then 0x7FF0000000000000#64 else 0xFFF0000000000000#64
          | .rd => if 0 < exactValue x y z then 0x7FEFFFFFFFFFFFFF#64 else 0xFFF0000000000000#64
          | .ru => if 0 < exactValue x y z then 0x7FF0000000000000#64 else 0xFFEFFFFFFFFFFFFF#64
          | .rz => if 0 < exactValue x y z then 0x7FEFFFFFFFFFFFFF#64 else 0xFFEFFFFFFFFFFFFF#64)) ∧
    (p.trap ≠ .anyFlags →
      (∀ f, fnmsub64 p x y z rm c = .trap f → f.oe = true → OverflowsAt rm (exactValue x y z)) ∧
      (OverflowsAt rm (exactValue x y z) → c.om = false → c.sae = false → ¬ DeTraps p x y z c →
        ∃ f, fnmsub64 p x y z rm c = .trap f ∧ f.oe = true))

/-- R115, R117: the result is tiny exactly within each mode's bound.  (a) With UM = 0 and no SAE a tiny result traps with UE,
exact or not and whatever FTZ, unless DE trapped first.  (b) A value under FTZ is the zero of the sign of the exact value
with UE and PE.  (c) A value without FTZ has UE and PE exactly when the exact value is no multiple of 2^-1074.  A result
that is not tiny has no UE. -/
def Obligations.UnderflowAndFlush : Prop :=
  ∀ (p : NumRules) (x y z : Quad) (rm : RM) (c : Ctl), c.daz = false →
    isFinite x = true → isFinite y = true → isFinite z = true →
    (TinyAt rm (exactValue x y z) →
      (p.trap ≠ .anyFlags → c.um = false → c.sae = false → ¬ DeTraps p x y z c →
        ∃ f, fnmsub64 p x y z rm c = .trap f ∧ f.ue = true) ∧
      (∀ res f, fnmsub64 p x y z rm c = .value res f →
        (c.ftz = true → f.ue = true ∧ f.pe = true ∧
          res = if exactValue x y z < 0 then 0x8000000000000000#64 else 0#64) ∧
        (c.ftz = false → (f.ue = true ↔ ¬ ∃ n : Int, exactValue x y z = n / 2 ^ 1074) ∧ f.pe = f.ue))) ∧
    (¬ TinyAt rm (exactValue x y z) →
      (∀ res f, fnmsub64 p x y z rm c = .value res f → f.ue = false) ∧
      (p.trap ≠ .anyFlags → ∀ f, fnmsub64 p x y z rm c = .trap f → f.ue = false))

/-- R116: PE is signalled exactly when the delivered result differs from the exact value; without finite operands, never. -/
def Obligations.PrecisionIffInexact : Prop :=
  ∀ (p : NumRules) (x y z res : Quad) (rm : RM) (c : Ctl) (f : Flags), c.daz = false →
    fnmsub64 p x y z rm c = .value res f →
    ((isFinite x = true ∧ isFinite y = true ∧ isFinite z = true) →
      (f.pe = true ↔ ¬(isFinite res = true ∧ val res = exactValue x y z))) ∧
    (¬(isFinite x = true ∧ isFinite y = true ∧ isFinite z = true) → f.pe = false)

/-- R117 with fault_flags at its default: a value is delivered only if every exception signalled is masked, and a trap is
returned only with an unmasked exception among its flags. -/
def Obligations.TrapIffUnmasked : Prop :=
  ∀ (p : NumRules) (x y z : Quad) (rm : RM) (c : Ctl), c.sae = false → p.trap ≠ .anyFlags →
    (∀ res f, fnmsub64 p x y z rm c = .value res f →
      (f.ie = true → c.im = true) ∧ (f.de = true → c.dm = true) ∧ (f.oe = true → c.om = true) ∧
      (f.ue = true → c.um = true) ∧ (f.pe = true → c.pm = true)) ∧
    (∀ f, fnmsub64 p x y z rm c = .trap f →
      (f.ie = true ∧ c.im = false) ∨ (f.de = true ∧ c.dm = false) ∨ (f.oe = true ∧ c.om = false) ∨
      (f.ue = true ∧ c.um = false) ∨ (f.pe = true ∧ c.pm = false))

/-- R117: the flags at a trap, with fault_flags at its default.  Stage 1: IE alone, or DE alone.  Stage 2 keeps the DE that
R111 signals on the operands after DAZ: an unmasked OE or UE comes with PE exactly when the exact value does not fit in 53
bits; a trap on PE alone has the flags of the masked response. -/
def Obligations.TrapFlagsByStage : Prop :=
  ∀ (p : NumRules) (x y z : Quad) (rm : RM) (c : Ctl) (f : Flags), p.trap = .inexact53 →
    fnmsub64 p x y z rm c = .trap f →
    let x' := afterDaz c.daz x
    let y' := afterDaz c.daz y
    let z' := afterDaz c.daz z
    let de := signalsDe p.de x' y' z'
    (c.im = false ∧ SignalsIe c.daz x y z ∧ f = { ie := true }) ∨
    (c.dm = false ∧ de = true ∧ f = { de := true }) ∨
    ((de = true → c.dm = true) ∧ c.om = false ∧
      ∃ pe, f = { de := de, oe := true, pe := pe } ∧ (pe = true ↔ ¬ Fits53 (exactValue x' y' z'))) ∨
    ((de = true → c.dm = true) ∧ c.um = false ∧
      ∃ pe, f = { de := de, ue := true, pe := pe } ∧ (pe = true ↔ ¬ Fits53 (exactValue x' y' z'))) ∨
    ((de = true → c.dm = true) ∧ c.pm = false ∧ f.ie = false ∧ f.de = de ∧ f.pe = true ∧
      (f.oe = true → c.om = true) ∧ (f.ue = true → c.um = true) ∧
      ∃ res, fnmsub64 p x y z rm { c with pm := true } = .value res f)

/-- R146: under SAE the operation never traps. -/
def Obligations.SaeNeverTraps : Prop :=
  ∀ (p : NumRules) (x y z : Quad) (rm : RM) (c : Ctl), c.sae = true →
    ∃ res f, fnmsub64 p x y z rm c = .value res f

/-- R101, R108, with the numeric parameters at their defaults: the order of x and y changes nothing unless both are NaNs. -/
def Obligations.MultiplicandsCommute : Prop :=
  ∀ (x y z : Quad) (rm : RM) (c : Ctl), ¬(isNan x = true ∧ isNan y = true) →
    fnmsub64 {} x y z rm c = fnmsub64 {} y x z rm c

/-! ## The six instructions complete, with their results -/

/-- R130, R133: VFNMSUB132SD (VEX) completes in a ready state with its operand readable and exceptions masked, with
-(DEST*SRC3) - SRC2 in DEST[63:0]; everything else as `Delivers` says. -/
def Obligations.Vfnmsub132sdVexResult : Prop :=
  ∀ (o : VexOps) (s : State) (q : Quad), VexReady s → VexOperand s o q → NextOk s o.length → AllMasked s →
    ∃ res f t,
      fnmsub64 s.cfg.rules (s.low (vexReg o.dest)) q (s.low (vexReg o.src2)) (mxcsrRounding s.mxcsr)
        (mxcsrControl s.mxcsr false) = .value res f ∧
      exec (.vfnmsub132sdVex o) s = .next t ∧ Delivers s t (vexReg o.dest) o.length res f

/-- R131, R133: VFNMSUB213SD (VEX), -(SRC2*DEST) - SRC3. -/
def Obligations.Vfnmsub213sdVexResult : Prop :=
  ∀ (o : VexOps) (s : State) (q : Quad), VexReady s → VexOperand s o q → NextOk s o.length → AllMasked s →
    ∃ res f t,
      fnmsub64 s.cfg.rules (s.low (vexReg o.src2)) (s.low (vexReg o.dest)) q (mxcsrRounding s.mxcsr)
        (mxcsrControl s.mxcsr false) = .value res f ∧
      exec (.vfnmsub213sdVex o) s = .next t ∧ Delivers s t (vexReg o.dest) o.length res f

/-- R132, R133: VFNMSUB231SD (VEX), -(SRC2*SRC3) - DEST. -/
def Obligations.Vfnmsub231sdVexResult : Prop :=
  ∀ (o : VexOps) (s : State) (q : Quad), VexReady s → VexOperand s o q → NextOk s o.length → AllMasked s →
    ∃ res f t,
      fnmsub64 s.cfg.rules (s.low (vexReg o.src2)) q (s.low (vexReg o.dest)) (mxcsrRounding s.mxcsr)
        (mxcsrControl s.mxcsr false) = .value res f ∧
      exec (.vfnmsub231sdVex o) s = .next t ∧ Delivers s t (vexReg o.dest) o.length res f

/-- R140, R143, R144, R146, R148: VFNMSUB132SD (EVEX) with its mask bit 1 completes with -(DEST*SRC3) - SRC2, rounded by
EVEX.RC with MXCSR left alone under embedded rounding, else by MXCSR.RM with the flags ORed in. -/
def Obligations.Vfnmsub132sdEvexResult : Prop :=
  ∀ (o : EvexOps) (s : State) (q : Quad), EvexReady s → o.reserved = false → MaskOn s o → EvexOperand s o q →
    NextOk s o.length → (AllMasked s ∨ o.b = true) →
    ∃ res f t,
      fnmsub64 s.cfg.rules (s.low o.dest) q (s.low o.src2)
        (if o.b then roundingMode (o.ll.getLsbD 1) (o.ll.getLsbD 0) else mxcsrRounding s.mxcsr)
        (mxcsrControl s.mxcsr o.b) = .value res f ∧
      exec (.vfnmsub132sdEvex o) s = .next t ∧ Delivers s t o.dest o.length res (if o.b then {} else f)

/-- R141, R143, R144, R146, R148: VFNMSUB213SD (EVEX), -(SRC2*DEST) - SRC3. -/
def Obligations.Vfnmsub213sdEvexResult : Prop :=
  ∀ (o : EvexOps) (s : State) (q : Quad), EvexReady s → o.reserved = false → MaskOn s o → EvexOperand s o q →
    NextOk s o.length → (AllMasked s ∨ o.b = true) →
    ∃ res f t,
      fnmsub64 s.cfg.rules (s.low o.src2) (s.low o.dest) q
        (if o.b then roundingMode (o.ll.getLsbD 1) (o.ll.getLsbD 0) else mxcsrRounding s.mxcsr)
        (mxcsrControl s.mxcsr o.b) = .value res f ∧
      exec (.vfnmsub213sdEvex o) s = .next t ∧ Delivers s t o.dest o.length res (if o.b then {} else f)

/-- R142, R143, R144, R146, R148: VFNMSUB231SD (EVEX), -(SRC2*SRC3) - DEST. -/
def Obligations.Vfnmsub231sdEvexResult : Prop :=
  ∀ (o : EvexOps) (s : State) (q : Quad), EvexReady s → o.reserved = false → MaskOn s o → EvexOperand s o q →
    NextOk s o.length → (AllMasked s ∨ o.b = true) →
    ∃ res f t,
      fnmsub64 s.cfg.rules (s.low o.src2) q (s.low o.dest)
        (if o.b then roundingMode (o.ll.getLsbD 1) (o.ll.getLsbD 0) else mxcsrRounding s.mxcsr)
        (mxcsrControl s.mxcsr o.b) = .value res f ∧
      exec (.vfnmsub231sdEvex o) s = .next t ∧ Delivers s t o.dest o.length res (if o.b then {} else f)

/-- R144, R145, R147: an EVEX form with its mask bit 0 completes without computing: merging keeps DEST[63:0], zeroing makes
it zero, and no flag is set; with a memory operand this needs no readable memory where the parameter suppresses the read. -/
def Obligations.MaskedOffForms : Prop :=
  ∀ (i : Instr) (o : EvexOps) (s : State), evexOps? i = some o → EvexReady s → o.reserved = false → MaskOff s o →
    NextOk s o.length →
    (s.cfg.maskSuppressesMemFault = true ∨ ∃ q, EvexOperand s o q) →
    ∃ t, exec i s = .next t ∧ Delivers s t o.dest o.length (if o.z then 0#64 else s.low o.dest) {}

/-- R163, R133, R148, R30: where FNMSUB64 traps, the flags are set and #XM is raised, or #UD with CR4.OSXMMEXCPT = 0, and
nothing else changes; where it returns a value with some exceptions unmasked, the form completes. -/
def Obligations.UnmaskedOutcome : Prop :=
  (∀ (i : Instr) (o : VexOps) (s : State) (q : Quad), vexOps? i = some o → VexReady s → VexOperand s o q →
    let r := rolesOf i (s.low (vexReg o.dest)) (s.low (vexReg o.src2)) q
    let out := fnmsub64 s.cfg.rules r.x r.y r.z (mxcsrRounding s.mxcsr) (mxcsrControl s.mxcsr false)
    (∀ f, out = .trap f → ∃ m, FlagsAdded s.mxcsr m f ∧
      exec i s = .fault (.raised (if s.cr4.getLsbD 10 then .xm else .ud) { s with mxcsr := m })) ∧
    (∀ res f, out = .value res f → NextOk s o.length →
      ∃ t, exec i s = .next t ∧ Delivers s t (vexReg o.dest) o.length res f)) ∧
  (∀ (i : Instr) (o : EvexOps) (s : State) (q : Quad), evexOps? i = some o → EvexReady s → o.reserved = false →
    MaskOn s o → EvexOperand s o q → o.b = false →
    let r := rolesOf i (s.low o.dest) (s.low o.src2) q
    let out := fnmsub64 s.cfg.rules r.x r.y r.z (mxcsrRounding s.mxcsr) (mxcsrControl s.mxcsr false)
    (∀ f, out = .trap f → ∃ m, FlagsAdded s.mxcsr m f ∧
      exec i s = .fault (.raised (if s.cr4.getLsbD 10 then .xm else .ud) { s with mxcsr := m })) ∧
    (∀ res f, out = .value res f → NextOk s o.length →
      ∃ t, exec i s = .next t ∧ Delivers s t o.dest o.length res f))

/-! ## Frames -/

/-- R11, R16, R22, R31, R44, R145: when a form completes, every vector register but the destination, every byte of memory and
every other register is unchanged; of the destination bits 127:64 are unchanged and the bits above are zero; of MXCSR only
IE, DE, OE, UE and PE can change. -/
def Obligations.FrameOfCompletion : Prop :=
  ∀ (i : Instr) (s t : State), exec i s = .next t →
    SameElse s t ∧ (∀ r, r ≠ destReg i → t.readV r = s.readV r) ∧
    (t.readV (destReg i)).extractLsb' 64 64 = (s.readV (destReg i)).extractLsb' 64 64 ∧
    (t.readV (destReg i)).extractLsb' 128 384 = 0#384 ∧
    t.mxcsr.extractLsb' 6 26 = s.mxcsr.extractLsb' 6 26 ∧ t.mxcsr.getLsbD 2 = s.mxcsr.getLsbD 2

/-- R118: flags already 1 stay 1, and ZE is never set. -/
def Obligations.FlagsAreSticky : Prop :=
  ∀ (i : Instr) (s t : State), exec i s = .next t →
    (∀ k, k < 6 → s.mxcsr.getLsbD k = true → t.mxcsr.getLsbD k = true) ∧ t.mxcsr.getLsbD 2 = s.mxcsr.getLsbD 2

/-- R20, R21: a form that completes performs pc <- pc + len, and the new pc is canonical and has not wrapped. -/
def Obligations.PcAdvancesByLength : Prop :=
  ∀ (i : Instr) (s t : State), exec i s = .next t →
    t.rip = s.rip + BitVec.ofNat 64 i.length ∧ s.rip.toNat + i.length < 2 ^ 64 ∧ Canonical s.cfg.va t.rip

/-- R170, R160, R162: what a fault leaves: everything as before, but the MXCSR flags that a floating-point trap set and the
CR2 that a page fault recorded.  The last clause, that a stop at an absent byte leaves the state as before, is about the
model's own fault, its choice of log 11. -/
def Obligations.FaultsArePrecise : Prop :=
  ∀ (i : Instr) (s left : State),
    (∀ x, exec i s = .fault (.raised x left) →
      left = { s with mxcsr := left.mxcsr, cr2 := left.cr2 } ∧
      left.mxcsr.extractLsb' 6 26 = s.mxcsr.extractLsb' 6 26 ∧
      (∀ k, k < 6 → s.mxcsr.getLsbD k = true → left.mxcsr.getLsbD k = true) ∧
      (left.mxcsr ≠ s.mxcsr → x = .xm ∨ x = .ud) ∧
      (∀ ec a, x = .pf ec a → left.cr2 = a) ∧ ((∀ ec a, x ≠ .pf ec a) → left.cr2 = s.cr2)) ∧
    (∀ a, exec i s = .fault (.absentByte a left) → left = s)

/-! ## State checks and memory faults -/

/-- R164, R165, R166, R169: the #UD conditions of the state and, for EVEX, of the encoding; #UD ranks before #NM. -/
def Obligations.StateUndefined : Prop :=
  ∀ (i : Instr) (s : State), Admitted s →
    (s.cr0.getLsbD 0 = false ∨ s.mode = .real ∨ s.mode = .virtual8086 ∨ s.cr4.getLsbD 18 = false ∨
      s.xcr0.getLsbD 1 = false ∨ s.xcr0.getLsbD 2 = false ∨
      (vexOps? i ≠ none ∧ s.cfg.fma = false) ∨
      (evexOps? i ≠ none ∧
        (s.cfg.avx512f = false ∨ s.xcr0.getLsbD 5 = false ∨ s.xcr0.getLsbD 6 = false ∨ s.xcr0.getLsbD 7 = false)) ∨
      (∃ o, evexOps? i = some o ∧ o.reserved = true)) →
    exec i s = .fault (.raised .ud s)

/-- R167: with CR0.TS = 1 and no #UD condition, #NM, whatever CR0.EM. -/
def Obligations.DeviceNotAvailable : Prop :=
  ∀ (i : Instr) (s : State), Admitted s → s.mode = .mode64 → s.cr0.getLsbD 0 = true → s.cr4.getLsbD 18 = true →
    s.xcr0.extractLsb' 1 2 = 3#2 →
    (vexOps? i ≠ none → s.cfg.fma = true) →
    (∀ o, evexOps? i = some o → s.cfg.avx512f = true ∧ s.xcr0.extractLsb' 5 3 = 7#3 ∧ o.reserved = false) →
    s.cr0.getLsbD 3 = true → exec i s = .fault (.raised .nm s)

/-- R50, R74, R168: a memory operand with a byte at a non-canonical address raises #SS(0) if it uses the SS segment, else
#GP(0), whatever the translation says. -/
def Obligations.NonCanonicalOperand : Prop :=
  ∀ (i : Instr) (s : State) (m : MemOp), FormReady i s → ReadsMemory i s m → ¬ QuadCanonical s (memAddr i s m) →
    exec i s = .fault (.raised (if usesSS (prefixesOf i) m then .ss else .gp) s)

/-- R49, R162, R168: the lowest byte whose translation faults gives #PF, its error code and CR2. -/
def Obligations.OperandPageFault : Prop :=
  ∀ (i : Instr) (s : State) (m : MemOp) (j : Nat) (c : PfCause), FormReady i s → ReadsMemory i s m →
    QuadCanonical s (memAddr i s m) → j < 8 →
    (∀ k, k < j → translate s.xlat (memAddr i s m + BitVec.ofNat 64 k) s.cpl = none) →
    translate s.xlat (memAddr i s m + BitVec.ofNat 64 j) s.cpl = some c →
    ∃ ec : BitVec 6,
      exec i s = .fault (.raised (.pf ec (memAddr i s m + BitVec.ofNat 64 j))
        { s with cr2 := memAddr i s m + BitVec.ofNat 64 j }) ∧
      ec.getLsbD 0 = c.protection ∧ ec.getLsbD 1 = false ∧ (ec.getLsbD 2 = true ↔ s.cpl = 3#2) ∧
      ec.getLsbD 3 = c.reserved ∧ ec.getLsbD 4 = false ∧ ec.getLsbD 5 = c.key

/-- R45, R168: with CR0.AM, RFLAGS.AC and CPL 3 an operand not 8-byte aligned raises #AC(0), after the other two checks. -/
def Obligations.AlignmentCheck : Prop :=
  ∀ (i : Instr) (s : State) (m : MemOp), FormReady i s → ReadsMemory i s m → QuadCanonical s (memAddr i s m) →
    QuadTranslates s (memAddr i s m) → s.cr0.getLsbD 18 = true → s.rflags.getLsbD 18 = true → s.cpl = 3#2 →
    (memAddr i s m).toNat % 8 ≠ 0 → exec i s = .fault (.raised .ac s)

/-- R47 and the model's own choices of log 11 and log 12: a read that touches a device window is refused; one that passes
every check and touches a byte the launch memory does not hold stops at the lowest such byte. -/
def Obligations.UnbackedReadsStop : Prop :=
  ∀ (i : Instr) (s : State) (m : MemOp), FormReady i s → ReadsMemory i s m → QuadCanonical s (memAddr i s m) →
    QuadTranslates s (memAddr i s m) →
    ((s.cr0AM = true ∧ s.rflagsAC = true ∧ s.cpl = 3#2) → (memAddr i s m).toNat % 8 = 0) →
    ((∃ x ∈ quadAddrs (memAddr i s m), ∃ r ∈ s.devices, r.first ≤ x ∧ x ≤ r.last) →
      exec i s = .refused .deviceMemory) ∧
    (∀ j, j < 8 → (∀ x ∈ quadAddrs (memAddr i s m), ∀ r ∈ s.devices, ¬(r.first ≤ x ∧ x ≤ r.last)) →
      (∀ k, k < j → memByte s.mem (memAddr i s m + BitVec.ofNat 64 k).toNat ≠ none) →
      memByte s.mem (memAddr i s m + BitVec.ofNat 64 j).toNat = none →
      exec i s = .fault (.absentByte (memAddr i s m + BitVec.ofNat 64 j) s))

/-- R41, R42: the value read has the byte at `addr + j` in bits 8j+7:8j. -/
def Obligations.ReadIsLittleEndian : Prop :=
  ∀ (s : State) (ss : Bool) (a : Addr) (q : Quad), readQuad s ss a = .ok q →
    ∀ j, j < 8 → memByte s.mem (a + BitVec.ofNat 64 j).toNat = some (q.extractLsb' (8 * j) 8)

/-! ## Addresses -/

/-- R73, R72, R76: under 67H the effective address of each addressing form is the sum of the low 32 bits of its parts, modulo
2^32, zero-extended; the RIP-relative form adds to pc_next. -/
def Obligations.AddressSize32 : Prop :=
  ∀ (i : Instr) (s : State) (x b : Bool) (r idx : BitVec 4) (sc : BitVec 2) (d : Disp) (e : BitVec 32),
    addr32 (prefixesOf i) = true →
    let base := overrideBase s (prefixesOf i)
    let next := s.rip + BitVec.ofNat 64 i.length
    let index := if idx = 4#4 then 0#32 else (s.readG idx).setWidth 32 <<< sc.toNat
    let disp := BitVec.ofInt 32 (dispOffset (disp8Scale i) d)
    memAddr i s (.rip x b e) = base + (next.setWidth 32 + e).setWidth 64 ∧
    memAddr i s (.base x r d) = base + ((s.readG r).setWidth 32 + disp).setWidth 64 ∧
    memAddr i s (.sib sc idx r d) = base + ((s.readG r).setWidth 32 + index + disp).setWidth 64 ∧
    memAddr i s (.sibNoBase b sc idx e) = base + (index + e).setWidth 64

/-- R74: FS.base or GS.base is added under its override and the other overrides add nothing; the operand uses the SS segment
when neither stands before and its base register is RSP or RBP. -/
def Obligations.SegmentOverrideAddsBase : Prop :=
  ∀ (s : State) (n : Nat) (next : Addr) (m : MemOp) (pre : Prefixes),
    linearAddr s pre n next m = overrideBase s pre + effectiveAddr s pre n next m ∧
    (usesSS pre m = true ↔
      (∀ g, g = .fs ∨ g = .gs → pre ≠ .seg g ∧ pre ≠ .segA32 g ∧ pre ≠ .a32Seg g) ∧
      ((∃ x r d, m = .base x r d ∧ (r = 4#4 ∨ r = 5#4)) ∨ (∃ sc i b d, m = .sib sc i b d ∧ (b = 4#4 ∨ b = 5#4))))

/-- R72, R75, R76: without 67H, the address of each addressing form, modulo 2^64: RIP-relative from pc_next, base, SIB with a
scaled index (none for number 4), SIB without base.  `disp8` is scaled by 8 in an EVEX form, so it reaches -1024 to +1016 in
steps of 8, and by 1 in a VEX form; `disp32` is not scaled in either. -/
def Obligations.Disp8Scaling : Prop :=
  ∀ (i : Instr) (s : State) (x b : Bool) (r idx : BitVec 4) (sc : BitVec 2) (d : Disp) (e : BitVec 32),
    addr32 (prefixesOf i) = false →
    let base := overrideBase s (prefixesOf i)
    let index := if idx = 4#4 then 0#64 else s.readG idx <<< sc.toNat
    let disp := BitVec.ofInt 64 (dispOffset (disp8Scale i) d)
    memAddr i s (.rip x b e) = base + (s.rip + BitVec.ofNat 64 i.length + BitVec.ofInt 64 e.toInt) ∧
    memAddr i s (.base x r d) = base + (s.readG r + disp) ∧
    memAddr i s (.sib sc idx r d) = base + (s.readG r + index + disp) ∧
    memAddr i s (.sibNoBase b sc idx e) = base + (index + BitVec.ofInt 64 e.toInt) ∧
    (∀ d8, -1024 ≤ dispOffset 8 (.d8 d8) ∧ dispOffset 8 (.d8 d8) ≤ 1016)

/-! ## What has no effect -/

/-- R84: VEX.L = 1 executes exactly as L = 0. -/
def Obligations.VexLengthIgnored : Prop :=
  ∀ (o : VexOps) (s : State),
    exec (.vfnmsub132sdVex { o with l := true }) s = exec (.vfnmsub132sdVex { o with l := false }) s ∧
    exec (.vfnmsub213sdVex { o with l := true }) s = exec (.vfnmsub213sdVex { o with l := false }) s ∧
    exec (.vfnmsub231sdVex { o with l := true }) s = exec (.vfnmsub231sdVex { o with l := false }) s

/-- R13, R144, R134: of the write-mask registers only bit 0 has an effect, and none on a VEX form. -/
def Obligations.OnlyMaskBitZeroRead : Prop :=
  ∀ (i : Instr) (s : State) (k : Vector (BitVec 64) 8),
    (∀ j : BitVec 3, evexOps? i ≠ none → (({ s with k := k } : State).readK j).getLsbD 0 = (s.readK j).getLsbD 0) →
    exec i { s with k := k } = mapResult (fun t => { t with k := k }) (exec i s)

/-- R16: a register form reads no general register. -/
def Obligations.RegisterFormIgnoresGeneral : Prop :=
  ∀ (i : Instr) (s : State) (g : Vector Quad 16) (x : Bool) (n : BitVec 4), src3Of i = .reg x n →
    exec i { s with g := g } = mapResult (fun t => { t with g := g }) (exec i s)

/-- R11: bits 127:64 (and above) of the second and third operand are never read: with other vector registers of the same low
quadwords and the same destination register, the outcome is the same, its state having those registers beside the
destination register it had. -/
def Obligations.SourceUpperBitsIgnored : Prop :=
  ∀ (i : Instr) (s : State) (v : Vector Vec 32),
    (∀ r, (({ s with v := v } : State).readV r).extractLsb' 0 64 = (s.readV r).extractLsb' 0 64) →
    ({ s with v := v } : State).readV (destReg i) = s.readV (destReg i) →
    exec i { s with v := v } =
      mapResult (fun t => ({ t with v := v } : State).writeV (destReg i) (t.readV (destReg i))) (exec i s)

/-- R33: the divide-by-zero mask ZM is never consulted. -/
def Obligations.ZeroDivideMaskIgnored : Prop :=
  ∀ (i : Instr) (s : State),
    exec i { s with mxcsr := s.mxcsr ^^^ 0x200#32 } =
      mapResult (fun t => { t with mxcsr := t.mxcsr ^^^ 0x200#32 }) (exec i s)

/-- R34, R167: CR0.EM is not consulted. -/
def Obligations.EmulationBitIgnored : Prop :=
  ∀ (i : Instr) (s : State),
    exec i { s with cr0 := s.cr0 ^^^ 0x4#64 } = mapResult (fun t => { t with cr0 := t.cr0 ^^^ 0x4#64 }) (exec i s)
end

