-- ==== Sys2Proof/Laws/Memory.lean ====
section
/-! SUPPORT. The laws of the launch memory: a read after a write, and the canonical form. -/

namespace Sys2Proof.Machine

open Sys2Proof

/-- A write is read back at its address and leaves every other address alone. -/
theorem memByte_memSet (m : List Host.Cell) (x : Nat) (b : Byte) (y : Nat) :
    memByte (memSet m x b) y = if x = y then some b else memByte m y := by
  induction m with
  | nil => simp [memSet, memByte]
  | cons c m ih =>
    obtain ⟨a, c⟩ := c
    by_cases h1 : x < a
    · simp [memSet, h1, memByte]
    · by_cases h2 : x = a
      · subst h2
        by_cases h3 : x = y <;> simp [memSet, memByte, h3]
      · by_cases h3 : a = y
        · rw [memSet, if_neg h1, if_neg h2, memByte, memByte, if_pos h3, if_pos h3, if_neg (by omega)]
        · rw [memSet, if_neg h1, if_neg h2, memByte, memByte, if_neg h3, if_neg h3, ih]

theorem mem_memSet {m : List Host.Cell} {x : Nat} {b : Byte} {c : Host.Cell} (h : c ∈ memSet m x b) :
    c = (x, b) ∨ c ∈ m := by
  induction m with
  | nil => simpa [memSet] using h
  | cons d m ih =>
    obtain ⟨a, d⟩ := d
    by_cases h1 : x < a
    · simpa [memSet, h1] using h
    · by_cases h2 : x = a
      · rw [memSet, if_neg h1, if_pos h2] at h
        rcases List.mem_cons.1 h with h | h
        · exact .inl h
        · exact .inr (List.mem_cons_of_mem _ h)
      · rw [memSet, if_neg h1, if_neg h2] at h
        rcases List.mem_cons.1 h with h | h
        · exact .inr (h ▸ List.mem_cons_self)
        · exact (ih h).imp_right (List.mem_cons_of_mem _)

/-- A write keeps the canonical form. -/
theorem memSet_wf {m : List Host.Cell} (h : Memory.wf m) {x : Nat} (hx : x < 2 ^ 64) (b : Byte) :
    Memory.wf (memSet m x b) := by
  refine ⟨?_, fun c hc => (mem_memSet hc).elim (fun e => e ▸ hx) (h.2 c)⟩
  replace h := h.1
  induction m with
  | nil => simp [memSet]
  | cons d m ih =>
    obtain ⟨a, d⟩ := d
    rw [List.pairwise_cons] at h
    by_cases h1 : x < a
    · rw [memSet, if_pos h1, List.pairwise_cons, List.pairwise_cons]
      refine ⟨fun c hc => ?_, h⟩
      rcases List.mem_cons.1 hc with rfl | hc
      · exact h1
      · exact lt_trans h1 (h.1 c hc)
    · by_cases h2 : x = a
      · rw [memSet, if_neg h1, if_pos h2, List.pairwise_cons]
        exact ⟨fun c hc => h2 ▸ h.1 c hc, h.2⟩
      · rw [memSet, if_neg h1, if_neg h2, List.pairwise_cons]
        refine ⟨fun c hc => ?_, ih h.2⟩
        rcases mem_memSet hc with rfl | hc
        · show a < x; omega
        · exact h.1 c hc

theorem memSetBytes_wf {m : List Host.Cell} (h : Memory.wf m) (a : Addr) (bs : List Byte) :
    Memory.wf (memSetBytes m a bs) := by
  induction bs generalizing m a with
  | nil => exact h
  | cons b bs ih => exact ih (memSet_wf h a.isLt b) _

/-- Storing bytes keeps the canonical form. -/
theorem placeBytes_wf {s : State} (h : Memory.wf s.mem) (bs : List Byte) : Memory.wf (placeBytes s bs).mem :=
  memSetBytes_wf h _ _

/-- The memory after reset is in canonical form. -/
theorem reset_mem_wf : Memory.wf State.reset.mem := 
  ⟨List.Pairwise.nil, fun _ hc => absurd hc List.not_mem_nil⟩

/-- What is stored outside a run of bytes is left alone. -/
theorem memByte_memSetBytes_ne (m : List Host.Cell) (a : Addr) (bs : List Byte) (y : Nat)
    (h : ∀ i < bs.length, (a + BitVec.ofNat 64 i).toNat ≠ y) :
    memByte (memSetBytes m a bs) y = memByte m y := by
  induction bs generalizing m a with
  | nil => rfl
  | cons b bs ih =>
    rw [memSetBytes, ih, memByte_memSet, if_neg]
    · simpa using h 0 (by simp)
    · intro i hi
      have := h (i + 1) (by simpa using hi)
      rwa [BitVec.add_assoc, show 1#64 + BitVec.ofNat 64 i = BitVec.ofNat 64 (i + 1) by
        rw [Nat.add_comm, BitVec.ofNat_add]]

/-- The bytes stored by a run are read back. -/
theorem memByte_memSetBytes (m : List Host.Cell) (a : Addr) (bs : List Byte) (hl : bs.length ≤ 2 ^ 64) (i : Nat)
    (hi : i < bs.length) : memByte (memSetBytes m a bs) (a + BitVec.ofNat 64 i).toNat = some bs[i] := by
  induction bs generalizing m a i with
  | nil => simp at hi
  | cons b bs ih =>
    simp only [List.length_cons] at hl hi
    cases i with
    | zero =>
      rw [memSetBytes, memByte_memSetBytes_ne]
      · simp [memByte_memSet]
      · intro j hj e
        have : a + 1#64 + BitVec.ofNat 64 j = a := by
          apply BitVec.eq_of_toNat_eq; simpa using e
        rw [BitVec.add_assoc, show 1#64 + BitVec.ofNat 64 j = BitVec.ofNat 64 (j + 1) by
          rw [Nat.add_comm, BitVec.ofNat_add]] at this
        have h0 := congrArg BitVec.toNat (BitVec.add_right_eq_self.1 this)
        simp only [BitVec.toNat_ofNat] at h0
        omega
    | succ i =>
      rw [memSetBytes, show a + BitVec.ofNat 64 (i + 1) = a + 1#64 + BitVec.ofNat 64 i by
        rw [BitVec.add_assoc, Nat.add_comm, BitVec.ofNat_add]]
      simpa using ih (memSet m a.toNat b) (a + 1#64) (by omega) i (by omega)

end Sys2Proof.Machine
end

