-- ==== Sys2Proof/Laws/State.lean ====
section
/-! SUPPORT. One lemma per field per update of State, so that no later proof unfolds a record update. -/

namespace Sys2Proof.Machine

open Sys2Proof

variable (s : State)

/-! ## writeV -/

@[simp] theorem writeV_v (i : BitVec 5) (x : Vec) : (s.writeV i x).v = s.v.set i.toNat x i.isLt := rfl
@[simp] theorem writeV_k (i : BitVec 5) (x : Vec) : (s.writeV i x).k = s.k := rfl
@[simp] theorem writeV_g (i : BitVec 5) (x : Vec) : (s.writeV i x).g = s.g := rfl
@[simp] theorem writeV_rip (i : BitVec 5) (x : Vec) : (s.writeV i x).rip = s.rip := rfl
@[simp] theorem writeV_rflags (i : BitVec 5) (x : Vec) : (s.writeV i x).rflags = s.rflags := rfl
@[simp] theorem writeV_mxcsr (i : BitVec 5) (x : Vec) : (s.writeV i x).mxcsr = s.mxcsr := rfl
@[simp] theorem writeV_cr0 (i : BitVec 5) (x : Vec) : (s.writeV i x).cr0 = s.cr0 := rfl
@[simp] theorem writeV_cr2 (i : BitVec 5) (x : Vec) : (s.writeV i x).cr2 = s.cr2 := rfl
@[simp] theorem writeV_cr4 (i : BitVec 5) (x : Vec) : (s.writeV i x).cr4 = s.cr4 := rfl
@[simp] theorem writeV_xcr0 (i : BitVec 5) (x : Vec) : (s.writeV i x).xcr0 = s.xcr0 := rfl
@[simp] theorem writeV_csBase (i : BitVec 5) (x : Vec) : (s.writeV i x).csBase = s.csBase := rfl
@[simp] theorem writeV_fsBase (i : BitVec 5) (x : Vec) : (s.writeV i x).fsBase = s.fsBase := rfl
@[simp] theorem writeV_gsBase (i : BitVec 5) (x : Vec) : (s.writeV i x).gsBase = s.gsBase := rfl
@[simp] theorem writeV_cpl (i : BitVec 5) (x : Vec) : (s.writeV i x).cpl = s.cpl := rfl
@[simp] theorem writeV_mode (i : BitVec 5) (x : Vec) : (s.writeV i x).mode = s.mode := rfl
@[simp] theorem writeV_mem (i : BitVec 5) (x : Vec) : (s.writeV i x).mem = s.mem := rfl
@[simp] theorem writeV_xlat (i : BitVec 5) (x : Vec) : (s.writeV i x).xlat = s.xlat := rfl
@[simp] theorem writeV_devices (i : BitVec 5) (x : Vec) : (s.writeV i x).devices = s.devices := rfl
@[simp] theorem writeV_debugArmed (i : BitVec 5) (x : Vec) : (s.writeV i x).debugArmed = s.debugArmed := rfl
@[simp] theorem writeV_cfg (i : BitVec 5) (x : Vec) : (s.writeV i x).cfg = s.cfg := rfl

/-! ## writeLow -/

@[simp] theorem writeLow_v (i : BitVec 5) (q : Quad) : (s.writeLow i q).v = s.v.set i.toNat ((s.hi i ++ q).setWidth 512) i.isLt := rfl
@[simp] theorem writeLow_k (i : BitVec 5) (q : Quad) : (s.writeLow i q).k = s.k := rfl
@[simp] theorem writeLow_g (i : BitVec 5) (q : Quad) : (s.writeLow i q).g = s.g := rfl
@[simp] theorem writeLow_rip (i : BitVec 5) (q : Quad) : (s.writeLow i q).rip = s.rip := rfl
@[simp] theorem writeLow_rflags (i : BitVec 5) (q : Quad) : (s.writeLow i q).rflags = s.rflags := rfl
@[simp] theorem writeLow_mxcsr (i : BitVec 5) (q : Quad) : (s.writeLow i q).mxcsr = s.mxcsr := rfl
@[simp] theorem writeLow_cr0 (i : BitVec 5) (q : Quad) : (s.writeLow i q).cr0 = s.cr0 := rfl
@[simp] theorem writeLow_cr2 (i : BitVec 5) (q : Quad) : (s.writeLow i q).cr2 = s.cr2 := rfl
@[simp] theorem writeLow_cr4 (i : BitVec 5) (q : Quad) : (s.writeLow i q).cr4 = s.cr4 := rfl
@[simp] theorem writeLow_xcr0 (i : BitVec 5) (q : Quad) : (s.writeLow i q).xcr0 = s.xcr0 := rfl
@[simp] theorem writeLow_csBase (i : BitVec 5) (q : Quad) : (s.writeLow i q).csBase = s.csBase := rfl
@[simp] theorem writeLow_fsBase (i : BitVec 5) (q : Quad) : (s.writeLow i q).fsBase = s.fsBase := rfl
@[simp] theorem writeLow_gsBase (i : BitVec 5) (q : Quad) : (s.writeLow i q).gsBase = s.gsBase := rfl
@[simp] theorem writeLow_cpl (i : BitVec 5) (q : Quad) : (s.writeLow i q).cpl = s.cpl := rfl
@[simp] theorem writeLow_mode (i : BitVec 5) (q : Quad) : (s.writeLow i q).mode = s.mode := rfl
@[simp] theorem writeLow_mem (i : BitVec 5) (q : Quad) : (s.writeLow i q).mem = s.mem := rfl
@[simp] theorem writeLow_xlat (i : BitVec 5) (q : Quad) : (s.writeLow i q).xlat = s.xlat := rfl
@[simp] theorem writeLow_devices (i : BitVec 5) (q : Quad) : (s.writeLow i q).devices = s.devices := rfl
@[simp] theorem writeLow_debugArmed (i : BitVec 5) (q : Quad) : (s.writeLow i q).debugArmed = s.debugArmed := rfl
@[simp] theorem writeLow_cfg (i : BitVec 5) (q : Quad) : (s.writeLow i q).cfg = s.cfg := rfl

/-! ## setRip -/

@[simp] theorem setRip_v (a : Addr) : (s.setRip a).v = s.v := rfl
@[simp] theorem setRip_k (a : Addr) : (s.setRip a).k = s.k := rfl
@[simp] theorem setRip_g (a : Addr) : (s.setRip a).g = s.g := rfl
@[simp] theorem setRip_rip (a : Addr) : (s.setRip a).rip = a := rfl
@[simp] theorem setRip_rflags (a : Addr) : (s.setRip a).rflags = s.rflags := rfl
@[simp] theorem setRip_mxcsr (a : Addr) : (s.setRip a).mxcsr = s.mxcsr := rfl
@[simp] theorem setRip_cr0 (a : Addr) : (s.setRip a).cr0 = s.cr0 := rfl
@[simp] theorem setRip_cr2 (a : Addr) : (s.setRip a).cr2 = s.cr2 := rfl
@[simp] theorem setRip_cr4 (a : Addr) : (s.setRip a).cr4 = s.cr4 := rfl
@[simp] theorem setRip_xcr0 (a : Addr) : (s.setRip a).xcr0 = s.xcr0 := rfl
@[simp] theorem setRip_csBase (a : Addr) : (s.setRip a).csBase = s.csBase := rfl
@[simp] theorem setRip_fsBase (a : Addr) : (s.setRip a).fsBase = s.fsBase := rfl
@[simp] theorem setRip_gsBase (a : Addr) : (s.setRip a).gsBase = s.gsBase := rfl
@[simp] theorem setRip_cpl (a : Addr) : (s.setRip a).cpl = s.cpl := rfl
@[simp] theorem setRip_mode (a : Addr) : (s.setRip a).mode = s.mode := rfl
@[simp] theorem setRip_mem (a : Addr) : (s.setRip a).mem = s.mem := rfl
@[simp] theorem setRip_xlat (a : Addr) : (s.setRip a).xlat = s.xlat := rfl
@[simp] theorem setRip_devices (a : Addr) : (s.setRip a).devices = s.devices := rfl
@[simp] theorem setRip_debugArmed (a : Addr) : (s.setRip a).debugArmed = s.debugArmed := rfl
@[simp] theorem setRip_cfg (a : Addr) : (s.setRip a).cfg = s.cfg := rfl

/-! ## setCr2 -/

@[simp] theorem setCr2_v (a : Addr) : (s.setCr2 a).v = s.v := rfl
@[simp] theorem setCr2_k (a : Addr) : (s.setCr2 a).k = s.k := rfl
@[simp] theorem setCr2_g (a : Addr) : (s.setCr2 a).g = s.g := rfl
@[simp] theorem setCr2_rip (a : Addr) : (s.setCr2 a).rip = s.rip := rfl
@[simp] theorem setCr2_rflags (a : Addr) : (s.setCr2 a).rflags = s.rflags := rfl
@[simp] theorem setCr2_mxcsr (a : Addr) : (s.setCr2 a).mxcsr = s.mxcsr := rfl
@[simp] theorem setCr2_cr0 (a : Addr) : (s.setCr2 a).cr0 = s.cr0 := rfl
@[simp] theorem setCr2_cr2 (a : Addr) : (s.setCr2 a).cr2 = a := rfl
@[simp] theorem setCr2_cr4 (a : Addr) : (s.setCr2 a).cr4 = s.cr4 := rfl
@[simp] theorem setCr2_xcr0 (a : Addr) : (s.setCr2 a).xcr0 = s.xcr0 := rfl
@[simp] theorem setCr2_csBase (a : Addr) : (s.setCr2 a).csBase = s.csBase := rfl
@[simp] theorem setCr2_fsBase (a : Addr) : (s.setCr2 a).fsBase = s.fsBase := rfl
@[simp] theorem setCr2_gsBase (a : Addr) : (s.setCr2 a).gsBase = s.gsBase := rfl
@[simp] theorem setCr2_cpl (a : Addr) : (s.setCr2 a).cpl = s.cpl := rfl
@[simp] theorem setCr2_mode (a : Addr) : (s.setCr2 a).mode = s.mode := rfl
@[simp] theorem setCr2_mem (a : Addr) : (s.setCr2 a).mem = s.mem := rfl
@[simp] theorem setCr2_xlat (a : Addr) : (s.setCr2 a).xlat = s.xlat := rfl
@[simp] theorem setCr2_devices (a : Addr) : (s.setCr2 a).devices = s.devices := rfl
@[simp] theorem setCr2_debugArmed (a : Addr) : (s.setCr2 a).debugArmed = s.debugArmed := rfl
@[simp] theorem setCr2_cfg (a : Addr) : (s.setCr2 a).cfg = s.cfg := rfl

/-! ## setMem -/

@[simp] theorem setMem_v (m : List Host.Cell) : (s.setMem m).v = s.v := rfl
@[simp] theorem setMem_k (m : List Host.Cell) : (s.setMem m).k = s.k := rfl
@[simp] theorem setMem_g (m : List Host.Cell) : (s.setMem m).g = s.g := rfl
@[simp] theorem setMem_rip (m : List Host.Cell) : (s.setMem m).rip = s.rip := rfl
@[simp] theorem setMem_rflags (m : List Host.Cell) : (s.setMem m).rflags = s.rflags := rfl
@[simp] theorem setMem_mxcsr (m : List Host.Cell) : (s.setMem m).mxcsr = s.mxcsr := rfl
@[simp] theorem setMem_cr0 (m : List Host.Cell) : (s.setMem m).cr0 = s.cr0 := rfl
@[simp] theorem setMem_cr2 (m : List Host.Cell) : (s.setMem m).cr2 = s.cr2 := rfl
@[simp] theorem setMem_cr4 (m : List Host.Cell) : (s.setMem m).cr4 = s.cr4 := rfl
@[simp] theorem setMem_xcr0 (m : List Host.Cell) : (s.setMem m).xcr0 = s.xcr0 := rfl
@[simp] theorem setMem_csBase (m : List Host.Cell) : (s.setMem m).csBase = s.csBase := rfl
@[simp] theorem setMem_fsBase (m : List Host.Cell) : (s.setMem m).fsBase = s.fsBase := rfl
@[simp] theorem setMem_gsBase (m : List Host.Cell) : (s.setMem m).gsBase = s.gsBase := rfl
@[simp] theorem setMem_cpl (m : List Host.Cell) : (s.setMem m).cpl = s.cpl := rfl
@[simp] theorem setMem_mode (m : List Host.Cell) : (s.setMem m).mode = s.mode := rfl
@[simp] theorem setMem_mem (m : List Host.Cell) : (s.setMem m).mem = m := rfl
@[simp] theorem setMem_xlat (m : List Host.Cell) : (s.setMem m).xlat = s.xlat := rfl
@[simp] theorem setMem_devices (m : List Host.Cell) : (s.setMem m).devices = s.devices := rfl
@[simp] theorem setMem_debugArmed (m : List Host.Cell) : (s.setMem m).debugArmed = s.debugArmed := rfl
@[simp] theorem setMem_cfg (m : List Host.Cell) : (s.setMem m).cfg = s.cfg := rfl

/-! ## orFlags -/

@[simp] theorem orFlags_v (f : Flags) : (s.orFlags f).v = s.v := rfl
@[simp] theorem orFlags_k (f : Flags) : (s.orFlags f).k = s.k := rfl
@[simp] theorem orFlags_g (f : Flags) : (s.orFlags f).g = s.g := rfl
@[simp] theorem orFlags_rip (f : Flags) : (s.orFlags f).rip = s.rip := rfl
@[simp] theorem orFlags_rflags (f : Flags) : (s.orFlags f).rflags = s.rflags := rfl
@[simp] theorem orFlags_mxcsr (f : Flags) : (s.orFlags f).mxcsr = s.mxcsr ||| (flagBits f).setWidth 32 := rfl
@[simp] theorem orFlags_cr0 (f : Flags) : (s.orFlags f).cr0 = s.cr0 := rfl
@[simp] theorem orFlags_cr2 (f : Flags) : (s.orFlags f).cr2 = s.cr2 := rfl
@[simp] theorem orFlags_cr4 (f : Flags) : (s.orFlags f).cr4 = s.cr4 := rfl
@[simp] theorem orFlags_xcr0 (f : Flags) : (s.orFlags f).xcr0 = s.xcr0 := rfl
@[simp] theorem orFlags_csBase (f : Flags) : (s.orFlags f).csBase = s.csBase := rfl
@[simp] theorem orFlags_fsBase (f : Flags) : (s.orFlags f).fsBase = s.fsBase := rfl
@[simp] theorem orFlags_gsBase (f : Flags) : (s.orFlags f).gsBase = s.gsBase := rfl
@[simp] theorem orFlags_cpl (f : Flags) : (s.orFlags f).cpl = s.cpl := rfl
@[simp] theorem orFlags_mode (f : Flags) : (s.orFlags f).mode = s.mode := rfl
@[simp] theorem orFlags_mem (f : Flags) : (s.orFlags f).mem = s.mem := rfl
@[simp] theorem orFlags_xlat (f : Flags) : (s.orFlags f).xlat = s.xlat := rfl
@[simp] theorem orFlags_devices (f : Flags) : (s.orFlags f).devices = s.devices := rfl
@[simp] theorem orFlags_debugArmed (f : Flags) : (s.orFlags f).debugArmed = s.debugArmed := rfl
@[simp] theorem orFlags_cfg (f : Flags) : (s.orFlags f).cfg = s.cfg := rfl

/-! ## Registers read after a write -/

@[simp] theorem readV_writeV_self (i : BitVec 5) (x : Vec) : (s.writeV i x).readV i = x := by
  simp [State.readV]

theorem readV_writeV_ne {i j : BitVec 5} (x : Vec) (h : j ≠ i) : (s.writeV i x).readV j = s.readV j := by
  have : i.toNat ≠ j.toNat := fun e => h (BitVec.eq_of_toNat_eq e.symm)
  simp [State.readV, Vector.getElem_set_ne, this]

@[simp] theorem readV_writeLow_self (i : BitVec 5) (q : Quad) :
    (s.writeLow i q).readV i = (s.hi i ++ q).setWidth 512 := readV_writeV_self s i _

theorem readV_writeLow_ne {i j : BitVec 5} (q : Quad) (h : j ≠ i) : (s.writeLow i q).readV j = s.readV j :=
  readV_writeV_ne s _ h

@[simp] theorem readV_setRip (a : Addr) (i : BitVec 5) : (s.setRip a).readV i = s.readV i := rfl
@[simp] theorem readV_orFlags (f : Flags) (i : BitVec 5) : (s.orFlags f).readV i = s.readV i := rfl
@[simp] theorem hi_orFlags (f : Flags) (i : BitVec 5) : (s.orFlags f).hi i = s.hi i := rfl
@[simp] theorem low_orFlags (f : Flags) (i : BitVec 5) : (s.orFlags f).low i = s.low i := rfl

/-- The destination write delivers its low quadword. -/
theorem writeLow_low (i : BitVec 5) (q : Quad) : ((s.writeLow i q).readV i).extractLsb' 0 64 = q := by
  rw [readV_writeLow_self]
  ext k hk
  rw [BitVec.getElem_extractLsb', BitVec.getLsbD_setWidth, BitVec.getLsbD_append]
  simp [hk, show k < 512 by omega]

/-- The destination write keeps bits 127:64. -/
theorem writeLow_hi (i : BitVec 5) (q : Quad) :
    ((s.writeLow i q).readV i).extractLsb' 64 64 = (s.readV i).extractLsb' 64 64 := by
  rw [readV_writeLow_self]
  ext k hk
  have e : (s.hi i ++ q).getLsbD (64 + k) = (s.readV i).getLsbD (64 + k) := by
    rw [BitVec.getLsbD_append]
    simp [State.hi, hk]
  simp only [BitVec.getElem_extractLsb', BitVec.getLsbD_setWidth, e]
  simp [show 64 + k < 512 by omega]

/-- The destination write zeroes every bit above 127. -/
theorem writeLow_upper (i : BitVec 5) (q : Quad) : ((s.writeLow i q).readV i).extractLsb' 128 384 = 0#384 := by
  rw [readV_writeLow_self]
  ext k hk
  simp

/-- The value the destination write stores is below 2^128. -/
theorem writeLow_lt (i : BitVec 5) (q : Quad) : ((s.writeLow i q).readV i).toNat < 2 ^ 128 := by
  rw [readV_writeLow_self, BitVec.toNat_setWidth]
  exact lt_of_le_of_lt (Nat.mod_le _ _) (s.hi i ++ q).isLt

end Sys2Proof.Machine
end

