-- ==== Sys2Proof/Laws/Ops.lean ====
section
/-! SUPPORT. One lemma for each shared operation that says once everything it can do. -/

namespace Sys2Proof.Machine

open Sys2Proof

/-! ## Launch premises -/

theorem admission_eq_none {s : State} : admission s = none ↔ Admitted s := by
  constructor
  · intro h
    by_cases h1 : s.mode = .mode32
    · simp [admission, h1] at h
    · by_cases h2 : s.mxcsr.extractLsb' 16 16 = 0#16
      · cases h3 : s.debugArmed
        · cases h4 : s.rflagsTF
          · exact ⟨h1, h2, h3, h4⟩
          · simp [admission, h1, h2, h3, h4] at h
        · simp [admission, h1, h2, h3] at h
      · simp [admission, h1, h2] at h
  · intro h
    simp [admission, h.mode, h.mxcsr, h.debug, h.singleStep]

theorem udVex_eq_false {s : State} (h : VexReady s) : udVex s = false := by
  simp [udVex, State.noVexMode, h.pe, h.mode64, h.osxsave, h.avx, h.fma]

theorem udEvex_eq_false {s : State} (h : EvexReady s) : udEvex s = false := by
  simp [udEvex, State.noVexMode, h.pe, h.mode64, h.osxsave, h.avx, h.avx512f, h.avx512]

/-! ## Canonical addresses -/

/-- All bits of a field are equal exactly where it is zero or all ones. -/
theorem bits_equal_iff {w : Nat} {t : BitVec (w + 1)} :
    (t = 0#(w + 1) ∨ t = BitVec.allOnes (w + 1)) ↔ ∀ i, i < w + 1 → t.getLsbD i = t.getLsbD w := by
  constructor
  · rintro (rfl | rfl) i hi
    · simp [-BitVec.getLsbD_eq_getElem]
    · simp [hi]
  · intro h
    cases hb : t.getLsbD w
    · exact .inl (BitVec.eq_of_getLsbD_eq fun i hi => by rw [h i hi, hb, BitVec.getLsbD_zero])
    · exact .inr (BitVec.eq_of_getLsbD_eq fun i hi => by rw [h i hi, hb, BitVec.getLsbD_allOnes, decide_eq_true hi])

/-- The bits of an address from `n` up, as a number, are zero or all ones exactly where they are all equal. -/
theorem top_bits_iff {a : Addr} {n w : Nat} (hn : n + (w + 1) = 64) :
    (a.toNat / 2 ^ n = 0 ∨ a.toNat / 2 ^ n = 2 ^ (w + 1) - 1) ↔ ∀ i, i < 64 → n ≤ i → a.getLsbD i = a.getLsbD 63 := by
  have ht : (a.extractLsb' n (w + 1)).toNat = a.toNat / 2 ^ n := by
    rw [BitVec.extractLsb'_toNat, Nat.shiftRight_eq_div_pow, Nat.mod_eq_of_lt]
    apply Nat.div_lt_of_lt_mul
    rw [← Nat.pow_add, hn]
    exact a.isLt
  have hb : ∀ i, i < w + 1 → (a.extractLsb' n (w + 1)).getLsbD i = a.getLsbD (n + i) := fun i hi => by
    simp only [BitVec.getLsbD_extractLsb', hi, decide_true, Bool.true_and]
  have h0 : (a.toNat / 2 ^ n = 0 ∨ a.toNat / 2 ^ n = 2 ^ (w + 1) - 1) ↔
      (a.extractLsb' n (w + 1) = 0#(w + 1) ∨ a.extractLsb' n (w + 1) = BitVec.allOnes (w + 1)) := by
    rw [← ht, ← BitVec.toNat_inj, ← BitVec.toNat_inj, BitVec.toNat_allOnes, BitVec.toNat_ofNat, Nat.zero_mod]
  rw [h0, bits_equal_iff]
  constructor
  · intro h i hi hni
    have := h (i - n) (by omega)
    rwa [hb _ (by omega), hb _ (by omega), show n + (i - n) = i by omega, show n + w = 63 by omega] at this
  · intro h i hi
    rw [hb i hi, hb w (by omega), show n + w = 63 by omega]
    exact h _ (by omega) (by omega)

/-- The model's canonical check is R50's condition. -/
theorem canonical_eq_true {va : VaBits} {a : Addr} : canonical va a = true ↔ Canonical va a := by
  simp only [canonical, Bool.or_eq_true, beq_iff_eq]
  cases va with
  | va48 => exact top_bits_iff (n := 47) (w := 16) rfl
  | va57 => exact top_bits_iff (n := 56) (w := 7) rfl

/-! ## Raising and stopping -/

/-- The state an exception leaves: CR2 takes the address of a page fault (60_exceptions.md R162). -/
def leftBy (x : Exc) (s : State) : State :=
  match x with
  | .ud => s
  | .nm => s
  | .ss => s
  | .gp => s
  | .pf _ a => s.setCr2 a
  | .ac => s
  | .xm => s

theorem raise_eq (x : Exc) (s : State) : raise x s = .fault (.raised x (leftBy x s)) := by
  cases x <;> rfl

theorem raise_ne_next (x : Exc) (s t : State) : raise x s ≠ .next t := by
  rw [raise_eq]; exact fun h => nomatch h

theorem stop_ne_next (st : Stop) (s t : State) : stop st s ≠ .next t := by
  cases st with
  | exc x => exact raise_ne_next x s t
  | absent a => exact fun h => nomatch h
  | refuse r => exact fun h => nomatch h

theorem fpTrap_eq (f : Flags) (s : State) :
    fpTrap f s = .fault (.raised (if s.osxmmexcpt then .xm else .ud) (s.orFlags f)) := by
  cases h : s.osxmmexcpt <;> simp [fpTrap, h, raise]

/-! ## Completing -/

theorem complete_of_ok {len : Nat} {s : State} (h : NextOk s len) :
    complete len s = .next (s.setRip (s.rip + BitVec.ofNat 64 len)) := by
  have hb : (decide (s.rip.toNat + len < 2 ^ 64) && canonical s.cfg.va (s.rip + BitVec.ofNat 64 len)) = true := by
    rw [Bool.and_eq_true, decide_eq_true_iff, canonical_eq_true]; exact h
  exact if_pos hb

theorem complete_of_not {len : Nat} {s : State} (h : ¬ NextOk s len) : complete len s = .refused .pcLeavesCanonical := by
  have hb : ¬(decide (s.rip.toNat + len < 2 ^ 64) && canonical s.cfg.va (s.rip + BitVec.ofNat 64 len)) = true := by
    rw [Bool.and_eq_true, decide_eq_true_iff, canonical_eq_true]; exact h
  exact if_neg hb

theorem complete_ne_fault (len : Nat) (s : State) (f : Fault) : complete len s ≠ .fault f := by
  by_cases h : NextOk s len
  · rw [complete_of_ok h]; exact fun e => nomatch e
  · rw [complete_of_not h]; exact fun e => nomatch e

theorem complete_eq_next {len : Nat} {s t : State} :
    complete len s = .next t ↔ NextOk s len ∧ t = s.setRip (s.rip + BitVec.ofNat 64 len) := by
  by_cases h : NextOk s len
  · rw [complete_of_ok h]
    exact ⟨fun e => ⟨h, by injection e with e; exact e.symm⟩, fun e => by rw [e.2]⟩
  · rw [complete_of_not h]
    exact ⟨fun e => (by cases e), fun e => absurd e.1 h⟩

/-! ## The data read -/

theorem isDevice_eq_false {s : State} {a : Addr} :
    s.isDevice a = false ↔ ∀ r ∈ s.devices, ¬(r.first ≤ a ∧ a ≤ r.last) := by
  simp [State.isDevice, AddrRange.has]

theorem pageFault_eq_none {s : State} {fetch : Bool} {a : Addr} :
    s.pageFault fetch a = none ↔ translate s.xlat a s.cpl = none := by
  simp [State.pageFault]

/-- A data read answers exactly where the quadword is readable, and with its value. -/
theorem readQuad_eq_ok {s : State} {ss : Bool} {a : Addr} {q : Quad} :
    readQuad s ss a = .ok q ↔ Readable s a ∧ q = quadValue s.mem a := by
  constructor
  · intro h
    unfold readQuad at h
    split at h
    · cases h
    rename_i h1
    split at h
    · cases h
    rename_i h2
    split at h
    · cases h
    rename_i h3
    split at h
    · cases h
    rename_i h4
    split at h
    · cases h
    rename_i h5
    refine ⟨⟨?_, ?_, ?_, ?_, ?_⟩, by injection h with h; exact h.symm⟩
    · simpa [QuadCanonical, ← canonical_eq_true] using h1
    · intro x hx
      exact pageFault_eq_none.1 (List.findSome?_eq_none_iff.1 h2 x hx)
    · rintro ⟨am, ac, cpl⟩
      simpa [State.alignmentChecked, am, ac, cpl] using h3
    · intro x hx
      apply isDevice_eq_false.1
      rw [Bool.not_eq_true, List.any_eq_false] at h4
      simpa using h4 x hx
    · intro x hx
      have := List.find?_eq_none.1 h5 x hx
      simpa [State.isAbsent] using this
  · rintro ⟨h, rfl⟩
    have h1 : ((quadAddrs a).any fun x => !canonical s.cfg.va x) = false := by
      rw [List.any_eq_false]
      intro x hx
      simp [canonical_eq_true.2 (h.canonical x hx)]
    have h2 : (quadAddrs a).findSome? (s.pageFault false) = none :=
      List.findSome?_eq_none_iff.2 fun x hx => pageFault_eq_none.2 (h.translates x hx)
    have h3 : (s.alignmentChecked && a.toNat % 8 != 0) = false := by
      have := h.aligned
      cases h1 : s.cr0AM <;> cases h2 : s.rflagsAC <;> by_cases h3 : s.cpl = 3#2 <;>
        simp_all [State.alignmentChecked]
    have h4 : (quadAddrs a).any s.isDevice = false := by
      rw [List.any_eq_false]
      intro x hx
      simp [isDevice_eq_false.2 (h.ordinary x hx)]
    have h5 : (quadAddrs a).find? s.isAbsent = none := by
      rw [List.find?_eq_none]
      intro x hx
      simpa [State.isAbsent] using h.present x hx
    simp [readQuad, h1, h2, h3, h4, h5]

/-- Every way a data read stops, in the order of 60_exceptions.md R168. -/
theorem readQuad_error {s : State} {ss : Bool} {a : Addr} {st : Stop} (h : readQuad s ss a = .error st) :
    (st = .exc (if ss then .ss else .gp) ∧ ¬ QuadCanonical s a) ∨
    (∃ x ∈ quadAddrs a, ∃ c, translate s.xlat x s.cpl = some c ∧ st = .exc (.pf (pfErrorCode c s.cpl false) x)) ∨
    (st = .exc .ac ∧ s.alignmentChecked = true ∧ a.toNat % 8 ≠ 0) ∨
    (st = .refuse .deviceMemory ∧ ∃ x ∈ quadAddrs a, s.isDevice x = true) ∨
    ∃ x ∈ quadAddrs a, memByte s.mem x.toNat = none ∧ st = .absent x := by
  unfold readQuad at h
  split at h
  · rename_i h1
    injection h with h
    refine .inl ⟨h.symm, fun hc => ?_⟩
    obtain ⟨x, hx, hn⟩ := List.any_eq_true.1 h1
    simp [canonical_eq_true.2 (hc x hx)] at hn
  split at h
  · rename_i x hx
    injection h with h
    obtain ⟨b, hb, hp⟩ := List.exists_of_findSome?_eq_some hx
    obtain ⟨c, hc, rfl⟩ := Option.map_eq_some_iff.1 hp
    exact .inr (.inl ⟨b, hb, c, hc, h.symm⟩)
  split at h
  · rename_i h3
    injection h with h
    rw [Bool.and_eq_true] at h3
    exact .inr (.inr (.inl ⟨h.symm, h3.1, by simpa using h3.2⟩))
  split at h
  · rename_i h4
    injection h with h
    exact .inr (.inr (.inr (.inl ⟨h.symm, List.any_eq_true.1 h4⟩)))
  split at h
  · rename_i x hx
    injection h with h
    refine .inr (.inr (.inr (.inr ⟨x, List.mem_of_find?_eq_some hx, ?_, h.symm⟩)))
    simpa [State.isAbsent] using List.find?_some hx
  · cases h

theorem vexSrc3_eq_ok {s : State} {o : VexOps} {q : Quad} : vexSrc3 s o = .ok q ↔ VexOperand s o q := by
  unfold vexSrc3 VexOperand
  cases o.src3 with
  | reg x n => simp [eq_comm]
  | mem m => exact readQuad_eq_ok

theorem evexSrc3_eq_ok {s : State} {o : EvexOps} {q : Quad} : evexSrc3 s o = .ok q ↔ EvexOperand s o q := by
  unfold evexSrc3 EvexOperand
  cases o.src3 with
  | reg x n => simp [eq_comm]
  | mem m => exact readQuad_eq_ok

/-! ## Fetch -/

/-- Where the bytes from place `i` on can be fetched, they come first in what is fetched. -/
theorem fetchFrom_of_bytes {s : State} {bs : List Byte} {i n : Nat} (hn : bs.length ≤ n)
    (h : ∀ k (hk : k < bs.length), fetchByte s (i + k) = .ok bs[k]) : ∃ rest, (fetchFrom s i n).1 = bs ++ rest := by
  induction bs generalizing i n with
  | nil => exact ⟨_, rfl⟩
  | cons b bs ih =>
    obtain ⟨n, rfl⟩ : ∃ m, n = m + 1 := ⟨n - 1, by simp at hn; omega⟩
    have h0 : fetchByte s i = .ok b := h 0 (by simp)
    obtain ⟨rest, hr⟩ := ih (i := i + 1) (n := n) (by simpa using hn) fun k hk => by
      rw [Nat.add_assoc, Nat.add_comm 1 k]
      exact h (k + 1) (by simpa using hk)
    exact ⟨rest, by simp [fetchFrom, h0, hr]⟩

end Sys2Proof.Machine
end

