-- ==== Sys2Proof/Laws/Exec.lean ====
section
/-! SUPPORT. What a form can do, said once: the next states, the faults. -/

namespace Sys2Proof.Machine

open Sys2Proof

/-- What ExecVEX does in a ready state once its operand is read (41 R133). -/
theorem execVex_ready {parts : Parts} {o : VexOps} {s : State} {q : Quad} (h : VexReady s) (ho : VexOperand s o q) :
    execVex parts o s = vexCompute parts o q s := by
  simp [execVex, admission_eq_none.2 h.toAdmitted, udVex_eq_false h, h.ts, vexSrc3_eq_ok.2 ho]

/-- Every next state of ExecVEX: the operand was read, FNMSUB64 returned a value, and it was delivered (41 R133). -/
theorem execVex_next {parts : Parts} {o : VexOps} {s t : State} (h : execVex parts o s = .next t) :
    ∃ s3 res f, vexSrc3 s o = .ok s3 ∧ udVex s = false ∧ admission s = none ∧ s.cr0TS = false ∧
      fnmsub64 s.cfg.rules (parts (s.low (vexReg o.dest)) (s.low (vexReg o.src2)) s3).x
        (parts (s.low (vexReg o.dest)) (s.low (vexReg o.src2)) s3).y
        (parts (s.low (vexReg o.dest)) (s.low (vexReg o.src2)) s3).z s.rm (s.ctl false) = .value res f ∧
      NextOk s o.length ∧
      t = ((s.orFlags f).writeLow (vexReg o.dest) res).setRip (s.rip + BitVec.ofNat 64 o.length) := by
  unfold execVex at h
  split at h
  · cases h
  rename_i h0
  split at h
  · exact absurd h (raise_ne_next _ _ _)
  rename_i h1
  split at h
  · exact absurd h (raise_ne_next _ _ _)
  rename_i h2
  split at h
  · exact absurd h (stop_ne_next _ _ _)
  rename_i s3 h3
  unfold vexCompute at h
  dsimp only at h
  split at h
  · rw [fpTrap_eq] at h; cases h
  rename_i res f hf
  obtain ⟨hn, rfl⟩ := complete_eq_next.1 h
  exact ⟨s3, res, f, h3, by simpa using h1, h0, by simpa using h2, hf, hn, rfl⟩

/-- Every next state of ExecEVEX: an element computed and delivered, or masked off (42 R148). -/
theorem execEvex_next {parts : Parts} {o : EvexOps} {s t : State} (h : execEvex parts o s = .next t) :
    o.reserved = false ∧ udEvex s = false ∧ admission s = none ∧ s.cr0TS = false ∧ NextOk s o.length ∧
    ((maskBit s o = true ∧ ∃ s3 res f, evexSrc3 s o = .ok s3 ∧
      fnmsub64 s.cfg.rules (parts (s.low o.dest) (s.low o.src2) s3).x (parts (s.low o.dest) (s.low o.src2) s3).y
        (parts (s.low o.dest) (s.low o.src2) s3).z (evexRm s o) (s.ctl (embeddedRounding o)) = .value res f ∧
      t = ((if embeddedRounding o then s else s.orFlags f).writeLow o.dest res).setRip
        (s.rip + BitVec.ofNat 64 o.length)) ∨
     (maskBit s o = false ∧
      t = (s.writeLow o.dest (if o.z then 0#64 else s.low o.dest)).setRip (s.rip + BitVec.ofNat 64 o.length))) := by
  unfold execEvex at h
  split at h
  · cases h
  rename_i h0
  split at h
  · exact absurd h (raise_ne_next _ _ _)
  rename_i h1
  rw [Bool.or_eq_true, not_or, Bool.not_eq_true, Bool.not_eq_true] at h1
  split at h
  · exact absurd h (raise_ne_next _ _ _)
  rename_i h2
  refine ⟨h1.1, h1.2, h0, by simpa using h2, ?_⟩
  split at h
  · rename_i h3
    have hk : maskBit s o = false := by
      simp [readSuppressed] at h3; exact h3.1.1
    obtain ⟨hn, rfl⟩ := complete_eq_next.1 h
    exact ⟨hn, .inr ⟨hk, rfl⟩⟩
  split at h
  · exact absurd h (stop_ne_next _ _ _)
  rename_i s3 h3
  split at h
  · rename_i hk
    unfold evexCompute at h
    dsimp only at h
    split at h
    · rw [fpTrap_eq] at h; cases h
    rename_i res f hf
    obtain ⟨hn, rfl⟩ := complete_eq_next.1 h
    refine ⟨?_, .inl ⟨hk, s3, res, f, h3, hf, ?_⟩⟩
    · split at hn <;> exact hn
    · split <;> rfl
  · rename_i hk
    obtain ⟨hn, rfl⟩ := complete_eq_next.1 h
    exact ⟨hn, .inr ⟨by simpa using hk, rfl⟩⟩

/-- Every fault of ExecVEX: #UD, #NM, a stop of the operand's read, or the floating-point trap (41 R133). -/
theorem execVex_fault {parts : Parts} {o : VexOps} {s : State} {f : Fault} (h : execVex parts o s = .fault f) :
    f = .raised .ud s ∨ f = .raised .nm s ∨ (∃ st, vexSrc3 s o = .error st ∧ stop st s = .fault f) ∨
    ∃ s3 g, vexSrc3 s o = .ok s3 ∧
      fnmsub64 s.cfg.rules (parts (s.low (vexReg o.dest)) (s.low (vexReg o.src2)) s3).x
        (parts (s.low (vexReg o.dest)) (s.low (vexReg o.src2)) s3).y
        (parts (s.low (vexReg o.dest)) (s.low (vexReg o.src2)) s3).z s.rm (s.ctl false) = .trap g ∧
      f = .raised (if s.osxmmexcpt then .xm else .ud) (s.orFlags g) := by
  unfold execVex at h
  split at h
  · cases h
  split at h
  · injection h with h; exact .inl h.symm
  split at h
  · injection h with h; exact .inr (.inl h.symm)
  split at h
  · rename_i st hs; exact .inr (.inr (.inl ⟨st, hs, h⟩))
  rename_i s3 h3
  unfold vexCompute at h
  dsimp only at h
  split at h
  · rename_i g hg
    rw [fpTrap_eq] at h
    injection h with h
    exact .inr (.inr (.inr ⟨s3, g, h3, hg, h.symm⟩))
  · exact absurd h (complete_ne_fault _ _ _)

/-- Every fault of ExecEVEX, likewise (42 R148). -/
theorem execEvex_fault {parts : Parts} {o : EvexOps} {s : State} {f : Fault} (h : execEvex parts o s = .fault f) :
    f = .raised .ud s ∨ f = .raised .nm s ∨ (∃ st, evexSrc3 s o = .error st ∧ stop st s = .fault f) ∨
    ∃ s3 g, evexSrc3 s o = .ok s3 ∧
      fnmsub64 s.cfg.rules (parts (s.low o.dest) (s.low o.src2) s3).x (parts (s.low o.dest) (s.low o.src2) s3).y
        (parts (s.low o.dest) (s.low o.src2) s3).z (evexRm s o) (s.ctl (embeddedRounding o)) = .trap g ∧
      f = .raised (if s.osxmmexcpt then .xm else .ud) (s.orFlags g) := by
  unfold execEvex at h
  split at h
  · cases h
  split at h
  · injection h with h; exact .inl h.symm
  split at h
  · injection h with h; exact .inr (.inl h.symm)
  split at h
  · exact absurd h (complete_ne_fault _ _ _)
  split at h
  · rename_i st hs; exact .inr (.inr (.inl ⟨st, hs, h⟩))
  rename_i s3 h3
  split at h
  · unfold evexCompute at h
    dsimp only at h
    split at h
    · rename_i g hg
      rw [fpTrap_eq] at h
      injection h with h
      exact .inr (.inr (.inr ⟨s3, g, h3, hg, h.symm⟩))
    · exact absurd h (complete_ne_fault _ _ _)
  · exact absurd h (complete_ne_fault _ _ _)

end Sys2Proof.Machine
end

