-- ==== Sys2Proof/Laws/Flags.lean ====
section
/-! SUPPORT. The model's reading and writing of MXCSR against R30's table, and its operands after DAZ and its invalid
combinations against R107 and R109. -/

namespace Sys2Proof.Machine

open Sys2Proof

theorem rmOfBits_eq_roundingMode (b : BitVec 2) : rmOfBits b = roundingMode (b.getLsbD 1) (b.getLsbD 0) := by
  revert b; decide

theorem rm_eq_mxcsrRounding (s : State) : s.rm = mxcsrRounding s.mxcsr := by
  simp [State.rm, rmOfBits_eq_roundingMode, mxcsrRounding]

theorem ctl_eq_mxcsrControl (s : State) (sae : Bool) : s.ctl sae = mxcsrControl s.mxcsr sae := rfl

/-- The model's operand after DAZ is R107's. -/
theorem dazOperand_eq_afterDaz (daz : Bool) (u : Quad) : dazOperand daz u = afterDaz daz u := by
  have hz : ∀ s : Bool, signedZero s = if s then 0x8000000000000000#64 else 0#64 := by decide
  have hm : u &&& 0x8000000000000000#64 = if u.getLsbD 63 then 0x8000000000000000#64 else 0#64 :=
    BitVec.and_twoPow u 63
  cases daz <;> cases h : isDenormal u <;> simp [dazOperand, afterDaz, h, hz, hm, signBit]

/-- The model's invalid combinations are R109's. -/
theorem isInvalid_eq_true {x y z : Quad} : isInvalid x y z = true ↔ InvalidTerms x y z := by
  simp [isInvalid, InvalidTerms, productSign, subtrahendSign, signBit, or_assoc, -BitVec.getLsbD_eq_getElem]
  cases BitVec.getLsbD x 63 <;> cases BitVec.getLsbD y 63 <;> cases BitVec.getLsbD z 63 <;> simp

/-- The flags of `orFlags` stand where R30 has them. -/
theorem orFlags_flagsAdded (s : State) (f : Flags) : FlagsAdded s.mxcsr (s.orFlags f).mxcsr f := by
  rcases f with ⟨ie, de, oe, ue, pe⟩
  constructor
  case rest =>
    refine BitVec.eq_of_getLsbD_eq fun i hi => ?_
    simp [State.orFlags, -BitVec.getLsbD_eq_getElem]
  all_goals simp only [State.orFlags, BitVec.getLsbD_or]
  case ze => cases ie <;> cases de <;> cases oe <;> cases ue <;> cases pe <;> simp [flagBits]
  all_goals
    congr 1
    revert ie de oe ue pe
    decide

/-- No flag added changes nothing. -/
theorem flagsAdded_none (m : BitVec 32) : FlagsAdded m m {} where
  ie := by simp
  de := by simp
  ze := rfl
  oe := by simp
  ue := by simp
  pe := by simp
  rest := rfl

end Sys2Proof.Machine
end

