-- ==== Sys2Proof/Laws/PerInstr.lean ====
section
/-! SUPPORT. The per-instruction families of LAWS.json. -/

namespace Sys2Proof.Laws

open Sys2Proof

theorem prefix_bytes_length (p : Prefixes) : p.bytes.length = p.count := by
  cases p <;> rfl

theorem disp_bytes_length (d : Disp) : d.bytes.length = d.size := by
  cases d <;> rfl

theorem src3_tail_length (r : Src3) : r.tail.length = r.tailSize := by
  cases r with
  | reg x n => rfl
  | mem m =>
    cases m with
    | rip x b d => rfl
    | base x r d => exact disp_bytes_length d
    | sib sc i b d => simp [Src3.tail, Src3.tailSize, disp_bytes_length, Nat.add_comm]
    | sibNoBase b sc i d => rfl

theorem vex_encode_length (op : Byte) (o : VexOps) : (o.encode op).length = o.length := by
  simp [VexOps.encode, VexOps.length, prefix_bytes_length, src3_tail_length]
  omega

theorem evex_encode_length (op : Byte) (o : EvexOps) : (o.encode op).length = o.length := by
  simp [EvexOps.encode, EvexOps.length, prefix_bytes_length, src3_tail_length]
  omega

/-- The encoder writes as many bytes as the length rule says (30_encoding.md R77). -/
def EncodedLength.Statement (i : Instr) : Prop := (encode i).length = i.length

theorem EncodedLength.vfnmsub132sdVex (o : VexOps) : EncodedLength.Statement (.vfnmsub132sdVex o) :=
  vex_encode_length _ o

theorem EncodedLength.vfnmsub213sdVex (o : VexOps) : EncodedLength.Statement (.vfnmsub213sdVex o) :=
  vex_encode_length _ o

theorem EncodedLength.vfnmsub231sdVex (o : VexOps) : EncodedLength.Statement (.vfnmsub231sdVex o) :=
  vex_encode_length _ o

theorem EncodedLength.vfnmsub132sdEvex (o : EvexOps) : EncodedLength.Statement (.vfnmsub132sdEvex o) :=
  evex_encode_length _ o

theorem EncodedLength.vfnmsub213sdEvex (o : EvexOps) : EncodedLength.Statement (.vfnmsub213sdEvex o) :=
  evex_encode_length _ o

theorem EncodedLength.vfnmsub231sdEvex (o : EvexOps) : EncodedLength.Statement (.vfnmsub231sdEvex o) :=
  evex_encode_length _ o

end Sys2Proof.Laws
end

