-- ==== Sys2Proof/Tests/Slice0.lean ====
section
/-! SUPPORT. Tests with expected values from 95_test_vectors.md and the rules, and for each statement with hypotheses a
witness that meets them. -/

namespace Sys2Proof.Tests

set_option Elab.async false

open Sys2Proof Sys2Proof.Machine

/-! ## Helpers -/

/-- A register with the given elements 0 and 1, and the fillers of L2.13 above. -/
def vec (e0 e1 : Quad) : Vec :=
  0xA7#64 ++ 0xA6#64 ++ 0xA5#64 ++ 0xA4#64 ++ 0xA3#64 ++ 0xA2#64 ++ e1 ++ e0

/-- A register with the given elements 0 and 1 and zeros above. -/
def low2 (e0 e1 : Quad) : Vec := (e1 ++ e0).setWidth 512

/-- The launch state of L3 with V[0], V[1], V[2], MXCSR as given, RAX = 402000H and K[1] = FFFEH. -/
def demo (d s2 s3 : Quad) (mxcsr : BitVec 32) : State where
  v := (((Vector.replicate 32 0#512).set 0 (vec d 0xA1#64)).set 1 (vec s2 0xB1#64)).set 2 (vec s3 0xC1#64)
  k := (Vector.replicate 8 0#64).set 1 0xFFFE#64
  g := (Vector.replicate 16 0#64).set 0 0x402000#64
  rip := 0x401000#64
  rflags := 0x2#64
  mxcsr := mxcsr
  cr0 := 0x80000011#64
  cr2 := 0#64
  cr4 := 0x40600#64
  xcr0 := 0xE7#64
  csBase := 0#64
  fsBase := 0x10#64
  gsBase := 0x20#64
  cpl := 3#2
  mode := .mode64
  mem := []
  xlat := []
  devices := []
  debugArmed := false
  cfg := {}

/-- The state with bytes stored at an address. -/
def put (s : State) (a : Addr) (bs : List Byte) : State := s.setMem (memSetBytes s.mem a bs)

/-- The memory of L2.14: 3.0 at 402000H, 5.0 at 402008H. -/
def withData (s : State) : State :=
  put s 0x402000#64
    [0x00#8, 0x00#8, 0x00#8, 0x00#8, 0x00#8, 0x00#8, 0x08#8, 0x40#8,
     0x00#8, 0x00#8, 0x00#8, 0x00#8, 0x00#8, 0x00#8, 0x14#8, 0x40#8]

/-- V[0] = 1.0, V[1] = 2.0, V[2] = 3.0, as in L2.13. -/
def demo123 : State := demo 0x3FF0000000000000#64 0x4000000000000000#64 0x4008000000000000#64 0x1F80#32

/-- V[0] = 2.0, V[1] = 3.0, V[2] = 5.0, as in T1 of L2.1. -/
def demo235 : State := demo 0x4000000000000000#64 0x4008000000000000#64 0x4014000000000000#64 0x1F80#32

/-- DEST = V[0], SRC2 = V[1], SRC3 = V[2]. -/
def rrr : VexOps := { pre := .none, l := false, dest := 0#4, src2 := 1#4, src3 := .reg false 2#4 }

/-- DEST = V[0], SRC2 = V[1], SRC3 in memory. -/
def rrm (m : MemOp) : VexOps := { pre := .none, l := false, dest := 0#4, src2 := 1#4, src3 := .mem m }

/-- The EVEX form of `rrr` with these fields. -/
def er (z : Bool) (ll : BitVec 2) (b : Bool) (aaa : BitVec 3) : EvexOps :=
  { pre := .none, z := z, ll := ll, b := b, aaa := aaa, dest := 0#5, src2 := 1#5, src3 := .reg false 2#4 }

/-- The EVEX form of `rrm` with these fields. -/
def em (z : Bool) (aaa : BitVec 3) (m : MemOp) : EvexOps :=
  { pre := .none, z := z, ll := 0#2, b := false, aaa := aaa, dest := 0#5, src2 := 1#5, src3 := .mem m }

/-- [rax] -/
def atRax : MemOp := .base false 0#4 .none

/-- V[i], MXCSR and RIP of a next state. -/
def after (r : Result) (i : BitVec 5) : Option (Vec × BitVec 32 × Addr) :=
  match r with
  | .next t => some (t.readV i, t.mxcsr, t.rip)
  | _ => none

/-- The exception raised, with MXCSR and CR2 as it leaves them. -/
def raised (r : Result) : Option (Exc × BitVec 32 × Addr) :=
  match r with
  | .fault (.raised x t) => some (x, t.mxcsr, t.cr2)
  | _ => none

/-- The refusal. -/
def refused (r : Result) : Option Refusal :=
  match r with
  | .refused x => some x
  | _ => none

/-- The absent byte a run stopped at. -/
def stoppedAt (r : Result) : Option Addr :=
  match r with
  | .fault (.absentByte a _) => some a
  | _ => none

theorem next_of_after {r : Result} {i : BitVec 5} {x : Vec × BitVec 32 × Addr} (h : after r i = some x) :
    ∃ t, r = .next t := by
  unfold after at h
  split at h
  · exact ⟨_, rfl⟩
  · cases h

theorem fault_of_raised {r : Result} {x : Exc} {y : BitVec 32 × Addr} (h : raised r = some (x, y)) :
    ∃ t, r = .fault (.raised x t) := by
  unfold raised at h
  split at h
  · injection h with h; injection h with h1; exact ⟨_, by rw [h1]⟩
  · cases h

/-! ## WellFormed refuses -/

theorem test_wf_base_rsp_needs_sib : (MemOp.base false 4#4 .none).wf = false := by decide
theorem test_wf_base_r12_needs_sib : (MemOp.base false 12#4 (.d8 0#8)).wf = false := by decide
theorem test_wf_base_rbp_needs_disp : (MemOp.base false 5#4 .none).wf = false := by decide
theorem test_wf_sib_base_r13_needs_disp : (MemOp.sib 0#2 1#4 13#4 .none).wf = false := by decide
theorem test_wf_zeroing_needs_mask : (Instr.vfnmsub132sdEvex (er true 0#2 false 0#3)).wf = false := by decide
theorem test_wf_broadcast_needs_register :
    (Instr.vfnmsub213sdEvex { em false 0#3 atRax with b := true }).wf = false := by decide
theorem test_wf_length_three : (Instr.vfnmsub231sdEvex (er false 3#2 false 0#3)).wf = false := by decide
theorem test_wf_accepts :
    (Instr.vfnmsub132sdVex rrr).wf = true ∧ (Instr.vfnmsub213sdVex (rrm atRax)).wf = true ∧
    (Instr.vfnmsub231sdVex (rrm (.sib 0#2 4#4 4#4 .none))).wf = true ∧
    (Instr.vfnmsub132sdEvex (er true 3#2 true 3#3)).wf = true ∧ (Instr.vfnmsub213sdEvex (em false 0#3 atRax)).wf = true ∧
    (Instr.vfnmsub231sdEvex (em true 7#3 (.rip false false 0#32))).wf = true := by decide

/-! ## Decoding: bytes written out from R62, R65, R67 (the rows of L2.15 and L2.16 that are cited) -/

/-- E1, E2, E3: the three VEX opcodes. -/
theorem test_decode_vex :
    decode [0xC4#8, 0xE2#8, 0xE9#8, 0x9F#8, 0xCB#8] =
      .insn (.vfnmsub132sdVex { pre := .none, l := false, dest := 1#4, src2 := 2#4, src3 := .reg false 3#4 }) [] ∧
    decode [0xC4#8, 0xE2#8, 0xE9#8, 0xAF#8, 0xCB#8] =
      .insn (.vfnmsub213sdVex { pre := .none, l := false, dest := 1#4, src2 := 2#4, src3 := .reg false 3#4 }) [] ∧
    decode [0xC4#8, 0xE2#8, 0xE9#8, 0xBF#8, 0xCB#8] =
      .insn (.vfnmsub231sdVex { pre := .none, l := false, dest := 1#4, src2 := 2#4, src3 := .reg false 3#4 }) [] := by
  decide +kernel

/-- E18, E20, E19: the three EVEX opcodes. -/
theorem test_decode_evex :
    decode [0x62#8, 0xF2#8, 0xED#8, 0x08#8, 0x9F#8, 0xCB#8] =
      .insn (.vfnmsub132sdEvex { er false 0#2 false 0#3 with dest := 1#5, src2 := 2#5, src3 := .reg false 3#4 }) [] ∧
    decode [0x62#8, 0x02#8, 0x8D#8, 0x00#8, 0xAF#8, 0xEF#8] =
      .insn (.vfnmsub213sdEvex { er false 0#2 false 0#3 with dest := 29#5, src2 := 30#5, src3 := .reg true 15#4 }) [] ∧
    decode [0x62#8, 0xA2#8, 0xF5#8, 0x00#8, 0xBF#8, 0xC2#8] =
      .insn (.vfnmsub231sdEvex { er false 0#2 false 0#3 with dest := 16#5, src2 := 17#5, src3 := .reg true 2#4 }) [] := by
  decide +kernel

/-- E9, E11, E14, E13: SIB, a base with a displacement of zero, no base, RIP-relative. -/
theorem test_decode_memory :
    decode [0xC4#8, 0xE2#8, 0xE9#8, 0xBF#8, 0x0C#8, 0x24#8] =
      .insn (.vfnmsub231sdVex { rrm (.sib 0#2 4#4 4#4 .none) with dest := 1#4, src2 := 2#4 }) [] ∧
    decode [0xC4#8, 0xC2#8, 0xE9#8, 0xBF#8, 0x4D#8, 0x00#8] =
      .insn (.vfnmsub231sdVex { rrm (.base false 13#4 (.d8 0#8)) with dest := 1#4, src2 := 2#4 }) [] ∧
    decode [0xC4#8, 0x22#8, 0xA9#8, 0xBF#8, 0x1C#8, 0x8D#8, 0x20#8, 0x00#8, 0x00#8, 0x00#8] =
      .insn (.vfnmsub231sdVex { rrm (.sibNoBase false 2#2 9#4 0x20#32) with dest := 11#4, src2 := 10#4 }) [] ∧
    decode [0xC4#8, 0xE2#8, 0xE9#8, 0xBF#8, 0x0D#8, 0x10#8, 0x00#8, 0x00#8, 0x00#8] =
      .insn (.vfnmsub231sdVex { rrm (.rip false false 0x10#32) with dest := 1#4, src2 := 2#4 }) [] := by
  decide +kernel

/-- U1, U2, U3, U5, U6, U8, U9: #UD; U11 to U14: not in scope; U15: refused. -/
theorem test_decode_outcomes :
    decode [0x62#8, 0xF2#8, 0xF5#8, 0x88#8, 0xBF#8, 0xC2#8] = .ud ∧
    decode [0x62#8, 0xF2#8, 0xF5#8, 0x18#8, 0xBF#8, 0x00#8] = .ud ∧
    decode [0x62#8, 0xF2#8, 0xF5#8, 0x68#8, 0xBF#8, 0xC2#8] = .ud ∧
    decode [0x66#8, 0xC4#8, 0xE2#8, 0xF1#8, 0xBF#8, 0xC2#8] = .ud ∧
    decode [0xF0#8, 0xC4#8, 0xE2#8, 0xF1#8, 0xBF#8, 0x00#8] = .ud ∧
    decode [0x48#8, 0xC4#8, 0xE2#8, 0xF1#8, 0xBF#8, 0xC2#8] = .ud ∧
    decode [0x66#8, 0x62#8, 0xF2#8, 0xF5#8, 0x08#8, 0xBF#8, 0xC2#8] = .ud ∧
    decode [0xC4#8, 0xE2#8, 0x71#8, 0xBF#8, 0xC2#8] = .notInScope ∧
    decode [0x62#8, 0xF6#8, 0xF5#8, 0x08#8, 0xBF#8, 0xC2#8] = .notInScope ∧
    decode [0x62#8, 0xF2#8, 0xF1#8, 0x08#8, 0xBF#8, 0xC2#8] = .notInScope ∧
    decode [0xC5#8, 0xF1#8, 0xBF#8, 0xC2#8] = .notInScope ∧
    decode [0x64#8, 0x64#8, 0xC4#8, 0xE2#8, 0xF1#8, 0xBF#8, 0x00#8] = .refuse .twoSegmentPrefixes := by
  decide +kernel

/-- The six rows of the opcode table as numbers: the row's match with zeros elsewhere.  Zeros store every complemented bit
as 0, so R, X, B, R', V' and vvvv are all ones. -/
theorem test_table_rows :
    decodeTableWord 32 0xC402819F = some (.vfnmsub132sdVex
      { rrm (.base true 8#4 .none) with dest := 8#4, src2 := 15#4 }) ∧
    decodeTableWord 32 0xC40281AF = some (.vfnmsub213sdVex
      { rrm (.base true 8#4 .none) with dest := 8#4, src2 := 15#4 }) ∧
    decodeTableWord 32 0xC40281BF = some (.vfnmsub231sdVex
      { rrm (.base true 8#4 .none) with dest := 8#4, src2 := 15#4 }) ∧
    decodeTableWord 40 0x620285009F = some (.vfnmsub132sdEvex
      { em false 0#3 (.base true 8#4 .none) with dest := 24#5, src2 := 31#5 }) ∧
    decodeTableWord 40 0x62028500AF = some (.vfnmsub213sdEvex
      { em false 0#3 (.base true 8#4 .none) with dest := 24#5, src2 := 31#5 }) ∧
    decodeTableWord 40 0x62028500BF = some (.vfnmsub231sdEvex
      { em false 0#3 (.base true 8#4 .none) with dest := 24#5, src2 := 31#5 }) := by
  decide +kernel

/-- The same bytes numbered with byte 0 least significant. -/
theorem test_table_row_low_first :
    decodeTableWord 32 0x9F8102C4 = decodeTableWord 32 0xC402819F ∧
    decodeTableWord 40 0xBF00850262 = decodeTableWord 40 0x62028500BF := by
  decide +kernel

/-- After reset a stored row is fetched, decoded and run, and raises #UD (R190). -/
theorem test_step_after_reset :
    raised (step (State.reset.withFetchWord 32 0xC402819F)) = some (.ud, 0x1F80#32, 0#64) ∧
    raised (step (State.reset.withFetchWord 40 0x62028500BF)) = some (.ud, 0x1F80#32, 0#64) := by
  decide +kernel

/-! ## The instructions -/

/-- T1, 132: -(2*5) - 3 = -13, bits 127:64 kept, bits 511:128 zeroed, RIP + 5. -/
theorem test_132_vex_register :
    after (exec (.vfnmsub132sdVex rrr) demo235) 0#5 =
      some (low2 0xC02A000000000000#64 0xA1#64, 0x1F80#32, 0x401005#64) := by decide +kernel

/-- N6: -(1*3) - 2 = -5. -/
theorem test_132_vex_memory :
    after (exec (.vfnmsub132sdVex (rrm atRax)) (withData demo123)) 0#5 =
      some (low2 0xC014000000000000#64 0xA1#64, 0x1F80#32, 0x401005#64) := by decide +kernel

/-- T1, 213: -(3*2) - 5 = -11. -/
theorem test_213_vex_register :
    after (exec (.vfnmsub213sdVex rrr) demo235) 0#5 =
      some (low2 0xC026000000000000#64 0xA1#64, 0x1F80#32, 0x401005#64) := by decide +kernel

/-- The second instruction of P4: the third operand an SNaN, IM = 0: #XM with IE set. -/
theorem test_213_vex_trap :
    raised (exec (.vfnmsub213sdVex rrr)
      (demo 0xC01C000000000000#64 0x4000000000000000#64 0x7FF0000000000001#64 0x1F00#32)) =
      some (.xm, 0x1F01#32, 0#64) := by decide +kernel

/-- T1, 231: -(3*5) - 2 = -17. -/
theorem test_231_vex_register :
    after (exec (.vfnmsub231sdVex rrr) demo235) 0#5 =
      some (low2 0xC031000000000000#64 0xA1#64, 0x1F80#32, 0x401005#64) := by decide +kernel

/-- N2: [rax+8] with disp8 not scaled: -(2*5) - 1 = -11. -/
theorem test_231_vex_memory :
    after (exec (.vfnmsub231sdVex (rrm (.base false 0#4 (.d8 8#8)))) (withData demo123)) 0#5 =
      some (low2 0xC026000000000000#64 0xA1#64, 0x1F80#32, 0x401006#64) := by decide +kernel

/-- T1, 132, EVEX with no write-mask: -13, RIP + 6. -/
theorem test_132_evex_register :
    after (exec (.vfnmsub132sdEvex (er false 0#2 false 0#3)) demo235) 0#5 =
      some (low2 0xC02A000000000000#64 0xA1#64, 0x1F80#32, 0x401006#64) := by decide +kernel

/-- S9: an SNaN with IM = 0 under the embedded rounding rn-sae: quieted, MXCSR not written. -/
theorem test_132_evex_sae :
    after (exec (.vfnmsub132sdEvex (er false 0#2 true 0#3))
      (demo 0x7FF0000000000001#64 0x3FF0000000000000#64 0x3FF0000000000000#64 0x1F00#32)) 0#5 =
      some (low2 0x7FF8000000000001#64 0xA1#64, 0x1F00#32, 0x401006#64) := by decide +kernel

/-- T1, 213, EVEX with no write-mask: -11. -/
theorem test_213_evex_register :
    after (exec (.vfnmsub213sdEvex (er false 0#2 false 0#3)) demo235) 0#5 =
      some (low2 0xC026000000000000#64 0xA1#64, 0x1F80#32, 0x401006#64) := by decide +kernel

/-- As M6: zeroing with mask bit 0 clear. -/
theorem test_213_evex_zeroing :
    after (exec (.vfnmsub213sdEvex (er true 0#2 false 1#3)) demo123) 0#5 =
      some (low2 0#64 0xA1#64, 0x1F80#32, 0x401006#64) := by decide +kernel

/-- M5: merging with mask bit 0 clear keeps element 0 and still zeroes the upper elements. -/
theorem test_231_evex_merging :
    after (exec (.vfnmsub231sdEvex (er false 0#2 false 1#3)) demo123) 0#5 =
      some (low2 0x3FF0000000000000#64 0xA1#64, 0x1F80#32, 0x401006#64) := by decide +kernel

/-- N4: [rax+4], a denormal operand: -1.0 with DE and PE. -/
theorem test_231_evex_memory :
    after (exec (.vfnmsub231sdEvex (em false 0#3 (.base false 0#4 (.d32 4#32)))) (withData demo123)) 0#5 =
      some (low2 0xBFF0000000000000#64 0xA1#64, 0x1FA2#32, 0x40100A#64) := by decide +kernel

/-- S5, S6: #NM under CR0.TS; #UD ranks before it. -/
theorem test_state_faults :
    raised (exec (.vfnmsub231sdVex rrr) { demo123 with cr0 := 0x80000019#64 }) = some (.nm, 0x1F80#32, 0#64) ∧
    raised (exec (.vfnmsub231sdVex rrr) { demo123 with cr0 := 0x80000019#64, cr4 := 0#64 }) =
      some (.ud, 0x1F80#32, 0#64) := by decide +kernel

/-- T1 runs whatever MAXVL and KW are (D3, D23, log 25): a VEX and an EVEX form with AVX512F and MAXVL = 256, and a masked
EVEX form with KW = 128. -/
theorem test_parameters_do_not_stop :
    after (exec (.vfnmsub132sdVex rrr) { demo235 with cfg := { maxvl := .w256 } }) 0#5 =
      some (low2 0xC02A000000000000#64 0xA1#64, 0x1F80#32, 0x401005#64) ∧
    after (exec (.vfnmsub132sdEvex (er false 0#2 false 0#3)) { demo235 with cfg := { maxvl := .w256 } }) 0#5 =
      some (low2 0xC02A000000000000#64 0xA1#64, 0x1F80#32, 0x401006#64) ∧
    after (exec (.vfnmsub213sdEvex (er true 0#2 false 1#3)) { demo123 with cfg := { kw := 128 } }) 0#5 =
      some (low2 0#64 0xA1#64, 0x1F80#32, 0x401006#64) := by decide +kernel

/-- RFLAGS.TF = 1, and an armed breakpoint: outside the launch premises of R179. -/
theorem test_debug_refused :
    refused (exec (.vfnmsub231sdVex rrr) { demo123 with rflags := 0x102#64 }) = some .debugArmed ∧
    refused (step { demo123 with debugArmed := true }) = some .debugArmed := by decide +kernel

/-! ## Witnesses: encoding -/

theorem witness_DecodeOfEncode :
    (Instr.vfnmsub132sdVex rrr).wf = true ∧ (Instr.vfnmsub213sdVex (rrm (.sibNoBase true 3#2 4#4 0x80000000#32))).wf = true ∧
    (Instr.vfnmsub231sdVex (rrm (.rip true true 0xFFFFFFFF#32))).wf = true ∧
    (Instr.vfnmsub132sdEvex (er true 3#2 true 7#3)).wf = true ∧
    (Instr.vfnmsub213sdEvex (em false 1#3 (.sib 0#2 12#4 15#4 (.d8 0x80#8)))).wf = true ∧
    (Instr.vfnmsub231sdEvex (em true 1#3 (.base true 7#4 (.d32 0#32)))).wf = true := by decide

theorem witness_EncodeOfDecode :
    decode [0x67#8, 0xC4#8, 0xE2#8, 0xF1#8, 0xBF#8, 0x00#8, 0x90#8] =
      .insn (.vfnmsub231sdVex { rrm atRax with pre := .a32 }) [0x90#8] := by decide +kernel

theorem witness_EncodingMatchesTableRow : rrr.pre = .none ∧ (er false 0#2 true 0#3).pre = .none := by decide

/-- Each of the four forbidden bytes, and the least and greatest REX byte. -/
theorem witness_ForbiddenPrefixIsUndefined :
    decode [0xC4#8, 0xE2#8, 0xF1#8, 0xBF#8, 0xC2#8] = .insn (.vfnmsub231sdVex rrr) [] ∧
    (∀ b ∈ [0xF0#8, 0x66#8, 0xF2#8, 0xF3#8], b = 0xF0#8 ∨ b = 0x66#8 ∨ b = 0xF2#8 ∨ b = 0xF3#8) ∧
    (∀ b ∈ [0x40#8, 0x4F#8], 0x40#8 ≤ b ∧ b ≤ 0x4F#8) ∧ prefixesOf (.vfnmsub231sdVex rrr) = .none := by decide +kernel

/-- The least and greatest REX byte, each with another legacy byte after it. -/
theorem witness_RepeatedPrefixesRefused :
    (∀ r ∈ [0x40#8, 0x4F#8], 0x40#8 ≤ r ∧ r ≤ 0x4F#8) ∧ Seg.byte .gs = 0x65#8 ∧
    decode [0x40#8, 0x65#8] = .refuse .rexNotLast ∧ decode [0x4F#8, 0x4F#8] = .refuse .rexNotLast := by decide +kernel

/-- Each of the three reserved encodings. -/
theorem witness_ReservedEvexIsUndefined :
    ((er true 0#2 false 0#3).src3.wf = true ∧ (er true 0#2 false 0#3).z = true ∧ (er true 0#2 false 0#3).aaa = 0#3) ∧
    ({ em false 1#3 atRax with b := true }.src3.wf = true ∧ { em false 1#3 atRax with b := true }.b = true ∧
      { em false 1#3 atRax with b := true }.src3 = .mem atRax) ∧
    ((er false 3#2 false 0#3).src3.wf = true ∧ (er false 3#2 false 0#3).ll = 3#2 ∧ (er false 3#2 false 0#3).b = false) := by
  decide

/-- One byte for each condition, next to the value of R64 and R66. -/
theorem witness_OtherEncodingsNotInScope :
    (0xE1#8).extractLsb' 0 5 ≠ 2#5 ∧ (0x71#8).getLsbD 7 = false ∧ (0xF0#8).extractLsb' 0 2 ≠ 1#2 ∧
    (0xF3#8).extractLsb' 0 2 ≠ 2#2 ∧ (0xF6#8).extractLsb' 2 2 ≠ 0#2 ∧ (0xF1#8).getLsbD 2 = false ∧
    (0x9E#8 ≠ 0x9F#8 ∧ 0x9E#8 ≠ 0xAF#8 ∧ 0x9E#8 ≠ 0xBF#8) := by decide

/-! ## Witnesses: step and reset -/

/-- The bytes C4 E2 F1 BF C2 at 401000H. -/
def demoCode : State := put demo123 0x401000#64 [0xC4#8, 0xE2#8, 0xF1#8, 0xBF#8, 0xC2#8]

theorem witness_StepRunsStoredInstruction :
    Admitted demoCode ∧ (Instr.vfnmsub231sdVex rrr).wf = true ∧ StoredAtPc demoCode (encode (.vfnmsub231sdVex rrr)) :=
  ⟨⟨by decide, by decide, rfl, by decide⟩, by decide, by decide, by decide +kernel⟩

/-- U3 stored at 401000H. -/
theorem witness_StepAtReservedEncodingRaises :
    let s := put demo123 0x401000#64 [0x62#8, 0xF2#8, 0xF5#8, 0x68#8, 0xBF#8, 0xC2#8]
    Admitted s ∧ (er false 3#2 false 0#3).src3.wf = true ∧ (er false 3#2 false 0#3).reserved = true ∧
    StoredAtPc s ((er false 3#2 false 0#3).encode 0xBF#8) :=
  ⟨⟨by decide, by decide, rfl, by decide⟩, by decide, by decide, by decide, by decide +kernel⟩

/-- The first address that is not canonical with 48 bits. -/
theorem witness_StepOutsideCanonicalRefused :
    let s : State := { demo123 with rip := 0x0000800000000000#64 }
    Admitted s ∧ ¬ Canonical s.cfg.va s.fetchBase :=
  ⟨⟨by decide, by decide, rfl, by decide⟩, by decide +kernel⟩

theorem witness_ResetRaisesUndefined : (Instr.vfnmsub132sdEvex (er false 0#2 false 0#3)).wf = true := by decide

theorem demoCode_step :
    after (step demoCode) 0#5 = some (low2 0xC01C000000000000#64 0xA1#64, 0x1F80#32, 0x401005#64) := by decide +kernel

theorem demoCode_inv : Inv demoCode where
  mem := by decide +kernel
  mxcsr := by decide
  v := by decide +kernel
  high := by intro h; cases h
  k := by decide +kernel
  config := by decide
  rip := by decide +kernel

theorem witness_StepKeepsInvariant : ∃ t, Inv demoCode ∧ step demoCode = .next t := by
  obtain ⟨t, ht⟩ := next_of_after demoCode_step
  exact ⟨t, demoCode_inv, ht⟩

/-! ## Witnesses and vectors: the fused operation.  MXCSR's low 16 bits stand for the control bits, as in L2. -/

/-- The control bits of an MXCSR. -/
def ctl (m : BitVec 32) : Ctl := (demo 0#64 0#64 0#64 m).ctl false

/-- The MXCSR values of L2 for RN, RD, RU and RZ, and the masks they clear one by one (K1, K3, K4, K8, K7). -/
theorem test_mxcsr_layout :
    mxcsrRounding 0x1F80#32 = .rn ∧ mxcsrRounding 0x3F80#32 = .rd ∧ mxcsrRounding 0x5F80#32 = .ru ∧
    mxcsrRounding 0x7F80#32 = .rz ∧ (mxcsrControl 0x1F00#32 false).im = false ∧
    (mxcsrControl 0x1E80#32 false).dm = false ∧ (mxcsrControl 0x1B80#32 false).om = false ∧
    (mxcsrControl 0x1780#32 false).um = false ∧ (mxcsrControl 0x0F80#32 false).pm = false ∧
    (mxcsrControl 0x1FC0#32 false).daz = true ∧ (mxcsrControl 0x9F80#32 false).ftz = true := by decide

/-- The fields at the ends of each class: a zero, the largest denormal, the least and the largest normal, the infinity, the
largest SNaN and the least QNaN. -/
theorem witness_BinaryValue :
    [0x8000000000000000#64, 0x000FFFFFFFFFFFFF#64, 0x0010000000000000#64, 0xFFEFFFFFFFFFFFFF#64].all
      (fun u : Quad => u.toNat / 2 ^ 52 % 2 ^ 11 != 2047) = true ∧
    isDenormal 0x000FFFFFFFFFFFFF#64 = true ∧ isDenormal 0x0010000000000000#64 = false ∧
    isInf 0x7FF0000000000000#64 = true ∧ isSnan 0x7FF7FFFFFFFFFFFF#64 = true ∧ isSnan 0x7FF8000000000000#64 = false := by
  decide +kernel

/-- G2 and G7; the operands of K3 with DAZ and PM = 0, a trap on PE alone. -/
theorem witness_DazReplacesDenormals :
    (ctl 0x1FC0#32).daz = true ∧ (ctl 0x0FC0#32).daz = true ∧ ({} : NumRules).trap ≠ .anyFlags ∧
    fnmsub64 {} 0x0000000000000001#64 0x3FF0000000000000#64 0x3FF0000000000000#64 .rn (ctl 0x1FC0#32) =
      .value 0xBFF0000000000000#64 {} ∧
    fnmsub64 {} 0x8000000000000001#64 0x3FF0000000000000#64 0x8000000000000000#64 .rn (ctl 0x1FC0#32) =
      .value 0#64 {} ∧
    fnmsub64 {} 0x3FD5555555555555#64 0x3FD5555555555555#64 0x0000000000000001#64 .rn (ctl 0x0FC0#32) =
      .trap { pe := true } := by decide +kernel

/-- C9: a QNaN and no SNaN.  C7: an SNaN beside a QNaN, masked; K1: an SNaN, unmasked. -/
theorem witness_NanOperandReturned :
    ({} : NumRules).nan = .firstOperand ∧ ({} : NumRules).trap ≠ .anyFlags ∧
    (isNan 0x7FFC000000000003#64 = true ∧ isSnan 0x7FF0000000000000#64 = false ∧ isSnan 0#64 = false ∧
      isSnan 0x7FFC000000000003#64 = false) ∧
    isSnan 0x7FF0000000000003#64 = true ∧ isNan 0x7FF0000000000003#64 = true ∧
    fnmsub64 {} 0x7FF0000000000000#64 0#64 0x7FFC000000000003#64 .rn (ctl 0x1F80#32) =
      .value 0x7FFC000000000003#64 {} ∧
    fnmsub64 {} 0x3FF0000000000000#64 0xFFF8000000000002#64 0x7FF0000000000003#64 .rn (ctl 0x1F80#32) =
      .value 0xFFF8000000000002#64 { ie := true } ∧
    fnmsub64 {} 0x7FF0000000000001#64 0x3FF0000000000000#64 0x3FF0000000000000#64 .rn (ctl 0x1F00#32) =
      .trap { ie := true } := by decide +kernel

/-- D1, D2, D3: each of the three combinations, D3's with DAZ = 0 and IM = 1. -/
theorem witness_InvalidCombination :
    ({} : NumRules).trap ≠ .anyFlags ∧ (ctl 0x1F80#32).daz = false ∧
    [0x7FF0000000000000#64, 0#64, 0x3FF0000000000000#64, 0x8000000000000000#64, 0xFFF0000000000000#64].any isNan = false ∧
    InvalidTerms (afterDaz false 0x7FF0000000000000#64) (afterDaz false 0#64) (afterDaz false 0x3FF0000000000000#64) ∧
    InvalidTerms (afterDaz false 0x8000000000000000#64) (afterDaz false 0xFFF0000000000000#64)
      (afterDaz false 0x7FF0000000000000#64) ∧
    InvalidTerms (afterDaz false 0x7FF0000000000000#64) (afterDaz false 0x3FF0000000000000#64)
      (afterDaz false 0xFFF0000000000000#64) ∧
    fnmsub64 {} 0x7FF0000000000000#64 0x3FF0000000000000#64 0xFFF0000000000000#64 .rn (ctl 0x1F80#32) =
      .value 0xFFF8000000000000#64 { ie := true } := by
  simp only [InvalidTerms, afterDaz]; decide +kernel

/-- IE signalled: an infinity times a denormal under DAZ (R107, R109).  Not signalled: the same without DAZ; a value (G5) and
a trap (K14) on ordinary operands. -/
theorem witness_SignalsIe :
    (SignalsIe true 0x7FF0000000000000#64 0x0000000000000001#64 0x3FF0000000000000#64 ∧
      fnmsub64 {} 0x7FF0000000000000#64 0x0000000000000001#64 0x3FF0000000000000#64 .rn (ctl 0x1FC0#32) =
        .value 0xFFF8000000000000#64 { ie := true }) ∧
    (¬ SignalsIe false 0x7FF0000000000000#64 0x0000000000000001#64 0x3FF0000000000000#64 ∧
      fnmsub64 {} 0x7FF0000000000000#64 0x0000000000000001#64 0x3FF0000000000000#64 .rn (ctl 0x1F80#32) =
        .value 0xFFF0000000000000#64 { de := true }) ∧
    ¬ SignalsIe false 0x0000000000000001#64 0#64 0x3FF0000000000000#64 ∧
    ¬ SignalsIe false 0x3FD5555555555555#64 0x3FD5555555555555#64 0x3FF0000000000000#64 := by
  simp only [SignalsIe, InvalidTerms, afterDaz]; decide +kernel

/-- G5 and G6: a denormal that signals DE, and one that a NaN hides.  K3: DM = 0; K15: DE masked, a trap on PE; K14: a trap
with no denormal operand. -/
theorem witness_DenormalOperandSignals :
    [ctl 0x1F80#32, ctl 0x1E80#32, ctl 0x0F80#32].all (!·.daz) = true ∧ ({} : NumRules).de = .anyDenormal ∧
    ({} : NumRules).trap ≠ .anyFlags ∧
    fnmsub64 {} 0x0000000000000001#64 0#64 0x3FF0000000000000#64 .rn (ctl 0x1F80#32) =
      .value 0xBFF0000000000000#64 { de := true } ∧
    fnmsub64 {} 0x0000000000000001#64 0x7FF8000000000001#64 0x3FF0000000000000#64 .rn (ctl 0x1F80#32) =
      .value 0x7FF8000000000001#64 {} ∧
    ((ctl 0x1E80#32).dm = false ∧ (ctl 0x1E80#32).sae = false ∧ isDenormal 0x0000000000000001#64 = true ∧
      isNan 0x0000000000000001#64 = false ∧ isNan 0x3FF0000000000000#64 = false ∧
      ¬ InvalidTerms 0x0000000000000001#64 0x3FF0000000000000#64 0x3FF0000000000000#64 ∧
      fnmsub64 {} 0x0000000000000001#64 0x3FF0000000000000#64 0x3FF0000000000000#64 .rn (ctl 0x1E80#32) =
        .trap { de := true }) ∧
    fnmsub64 {} 0x0000000000000001#64 0x3FD5555555555555#64 0x3FD5555555555555#64 .rn (ctl 0x0F80#32) =
      .trap { de := true, pe := true } ∧
    fnmsub64 {} 0x3FD5555555555555#64 0x3FD5555555555555#64 0x3FF0000000000000#64 .rn (ctl 0x0F80#32) =
      .trap { pe := true } := by
  simp only [InvalidTerms]; decide +kernel

/-- E3: an infinite product.  E6: an infinite subtrahend. -/
theorem witness_InfiniteOperands :
    (ctl 0x1F80#32).daz = false ∧
    (isInf 0x7FF0000000000000#64 = true ∧
      ¬ InvalidTerms 0x7FF0000000000000#64 0xFFF0000000000000#64 0x3FF0000000000000#64 ∧
      fnmsub64 {} 0x7FF0000000000000#64 0xFFF0000000000000#64 0x3FF0000000000000#64 .rn (ctl 0x1F80#32) =
        .value 0x7FF0000000000000#64 {}) ∧
    (isInf 0x7FEFFFFFFFFFFFFF#64 = false ∧
      ¬ InvalidTerms 0x7FEFFFFFFFFFFFFF#64 0x7FEFFFFFFFFFFFFF#64 0x7FF0000000000000#64 ∧
      fnmsub64 {} 0x7FEFFFFFFFFFFFFF#64 0x7FEFFFFFFFFFFFFF#64 0x7FF0000000000000#64 .rn (ctl 0x1F80#32) =
        .value 0xFFF0000000000000#64 {}) := by
  simp only [InvalidTerms]; decide +kernel

/-- F1: two zeros of one sign.  F11: cancellation, RD. -/
theorem witness_ExactZeroResult :
    (isFinite 0#64 = true ∧ exactValue 0#64 0#64 0#64 = 0 ∧
      fnmsub64 {} 0#64 0#64 0#64 .rn (ctl 0x1F80#32) = .value 0x8000000000000000#64 {}) ∧
    (isFinite 0x3FF0000000000000#64 = true ∧ isFinite 0xBFF0000000000000#64 = true ∧
      exactValue 0x3FF0000000000000#64 0x3FF0000000000000#64 0xBFF0000000000000#64 = 0 ∧
      fnmsub64 {} 0x3FF0000000000000#64 0x3FF0000000000000#64 0xBFF0000000000000#64 .rd (ctl 0x3F80#32) =
        .value 0x8000000000000000#64 {}) := by decide +kernel

/-- A7: a normal result.  I11: the largest denormal. -/
theorem witness_RepresentableUnchanged :
    (ctl 0x1F80#32).daz = false ∧ (ctl 0x1F80#32).um = true ∧ (ctl 0x1F80#32).ftz = false ∧
    (ctl 0x1F80#32).dm = true ∧
    [0x3FF0000000400000#64, 0xBFF0000000800000#64, 0x0010000000000000#64, 0x3FEFFFFFFFFFFFFE#64, 0#64,
      0x800FFFFFFFFFFFFF#64].all isFinite = true ∧
    (isFinite 0xBC30000000000000#64 = true ∧
      val 0xBC30000000000000#64 = exactValue 0x3FF0000000400000#64 0x3FF0000000400000#64 0xBFF0000000800000#64 ∧
      exactValue 0x3FF0000000400000#64 0x3FF0000000400000#64 0xBFF0000000800000#64 ≠ 0) ∧
    (isDenormal 0x800FFFFFFFFFFFFF#64 = true ∧
      val 0x800FFFFFFFFFFFFF#64 = exactValue 0x0010000000000000#64 0x3FEFFFFFFFFFFFFE#64 0#64 ∧
      exactValue 0x0010000000000000#64 0x3FEFFFFFFFFFFFFE#64 0#64 ≠ 0) := by decide +kernel

/-- B1, a tie; H10, below the half-way point to 2^1024. -/
theorem witness_RoundsToNearestEven :
    (ctl 0x1F80#32).daz = false ∧ (ctl 0x1F80#32).ftz = false ∧
    [0x3FD5555555555555#64, 0x4008000000000000#64, 0#64, 0xBFF0000000000000#64, 0xFFEFFFFFFFFFFFFF#64].all isFinite = true ∧
    fnmsub64 {} 0x3FD5555555555555#64 0x4008000000000000#64 0#64 .rn (ctl 0x1F80#32) =
      .value 0xBFF0000000000000#64 { pe := true } ∧
    fnmsub64 {} 0x7FEFFFFFFFFFFFFF#64 0x3FF0000000000000#64 0x7C80000000000000#64 .rn (ctl 0x1F80#32) =
      .value 0xFFEFFFFFFFFFFFFF#64 { pe := true } := by decide +kernel

/-- B10, B7, B8: each directed mode. -/
theorem witness_RoundsDirected :
    (ctl 0x1F80#32).daz = false ∧ (ctl 0x1F80#32).ftz = false ∧
    fnmsub64 {} 0x3FF0000000000000#64 0x3FF0000000000000#64 0x3C30000000000000#64 .rd (ctl 0x1F80#32) =
      .value 0xBFF0000000000001#64 { pe := true } ∧
    fnmsub64 {} 0x3FD5555555555555#64 0xC008000000000000#64 0#64 .ru (ctl 0x1F80#32) =
      .value 0x3FF0000000000000#64 { pe := true } ∧
    fnmsub64 {} 0x3FD5555555555555#64 0xC008000000000000#64 0#64 .rz (ctl 0x1F80#32) =
      .value 0x3FEFFFFFFFFFFFFF#64 { pe := true } ∧
    [0xBFF0000000000001#64, 0x3FF0000000000000#64, 0x3FEFFFFFFFFFFFFF#64, 0x3C30000000000000#64, 0x3FD5555555555555#64,
      0xC008000000000000#64, 0#64].all isFinite = true := by decide +kernel

/-- I13 in RN, and B10's operands in RD, with FTZ = 1: results that are not tiny. -/
theorem witness_RoundsUnderFtz :
    (ctl 0x9F80#32).daz = false ∧ (ctl 0x9F80#32).ftz = true ∧
    ¬ TinyAt .rn (exactValue 0x0010000000000001#64 0x3FEFFFFFFFFFFFFE#64 0#64) ∧
    fnmsub64 {} 0x0010000000000001#64 0x3FEFFFFFFFFFFFFE#64 0#64 .rn (ctl 0x9F80#32) =
      .value 0x8010000000000000#64 { pe := true } ∧
    ¬ TinyAt .rd (exactValue 0x3FF0000000000000#64 0x3FF0000000000000#64 0x3C30000000000000#64) ∧
    fnmsub64 {} 0x3FF0000000000000#64 0x3FF0000000000000#64 0x3C30000000000000#64 .rd (ctl 0x9F80#32) =
      .value 0xBFF0000000000001#64 { pe := true } := by
  simp only [TinyAt, belowNormal]; decide +kernel

/-- H9: at RN's bound.  H6, H3, H8: the other modes. -/
theorem witness_OverflowBoundAndResult :
    (ctl 0x1F80#32).daz = false ∧
    [0x7FEFFFFFFFFFFFFF#64, 0x3FF0000000000000#64, 0x7C90000000000000#64, 0xC000000000000000#64, 0x4000000000000000#64,
      0#64].all isFinite = true ∧
    fnmsub64 {} 0x7FEFFFFFFFFFFFFF#64 0x3FF0000000000000#64 0x7C90000000000000#64 .rn (ctl 0x1F80#32) =
      .value 0xFFF0000000000000#64 { oe := true, pe := true } ∧
    fnmsub64 {} 0x7FEFFFFFFFFFFFFF#64 0xC000000000000000#64 0#64 .rd (ctl 0x1F80#32) =
      .value 0x7FEFFFFFFFFFFFFF#64 { oe := true, pe := true } ∧
    fnmsub64 {} 0x7FEFFFFFFFFFFFFF#64 0x4000000000000000#64 0#64 .ru (ctl 0x1F80#32) =
      .value 0xFFEFFFFFFFFFFFFF#64 { oe := true, pe := true } ∧
    fnmsub64 {} 0x7FEFFFFFFFFFFFFF#64 0xC000000000000000#64 0#64 .rz (ctl 0x1F80#32) =
      .value 0x7FEFFFFFFFFFFFFF#64 { oe := true, pe := true } := by decide +kernel

/-- Each bound of `OverflowsAt` is met at its end: H9 (2^1024 - 2^970), and K5's operands (-2^1024) in the directed modes. -/
theorem witness_OverflowsAt :
    OverflowsAt .rn (exactValue 0x7FEFFFFFFFFFFFFF#64 0x3FF0000000000000#64 0x7C90000000000000#64) ∧
    OverflowsAt .rd (exactValue 0x7FE0000000000000#64 0xC000000000000000#64 0#64) ∧
    OverflowsAt .ru (exactValue 0x7FE0000000000000#64 0x4000000000000000#64 0#64) ∧
    OverflowsAt .rz (exactValue 0x7FE0000000000000#64 0x4000000000000000#64 0#64) := by
  simp only [OverflowsAt]
  exact ⟨by decide +kernel, .inl (by decide +kernel), .inr (by decide +kernel), by decide +kernel⟩

/-- K5: an exact overflow with OM = 0 and no denormal operand. -/
theorem witness_OverflowTraps :
    ({} : NumRules).trap ≠ .anyFlags ∧ (ctl 0x1B80#32).om = false ∧ (ctl 0x1B80#32).sae = false ∧
    ¬ DeTraps {} 0x7FE0000000000000#64 0x4000000000000000#64 0#64 (ctl 0x1B80#32) ∧
    fnmsub64 {} 0x7FE0000000000000#64 0x4000000000000000#64 0#64 .rn (ctl 0x1B80#32) = .trap { oe := true } := by
  simp only [DeTraps]; decide +kernel

/-- I9 without and with FTZ (I10); 2^-1022 itself; an exact zero (F5). -/
theorem witness_UnderflowAndFlush :
    ((ctl 0x1F80#32).daz = false ∧ (ctl 0x1F80#32).ftz = false ∧ (ctl 0x9F80#32).daz = false ∧ (ctl 0x9F80#32).ftz = true) ∧
    [0x0010000000000000#64, 0x3FEFFFFFFFFFFFFF#64, 0x3FF0000000000000#64, 0xBFF0000000000000#64, 0#64].all isFinite = true ∧
    fnmsub64 {} 0x0010000000000000#64 0x3FEFFFFFFFFFFFFF#64 0#64 .rn (ctl 0x1F80#32) =
      .value 0x8010000000000000#64 { ue := true, pe := true } ∧
    fnmsub64 {} 0x0010000000000000#64 0x3FEFFFFFFFFFFFFF#64 0#64 .rn (ctl 0x9F80#32) =
      .value 0x8000000000000000#64 { ue := true, pe := true } ∧
    fnmsub64 {} 0x0010000000000000#64 0x3FF0000000000000#64 0#64 .rn (ctl 0x9F80#32) =
      .value 0x8010000000000000#64 {} ∧
    fnmsub64 {} 0x3FF0000000000000#64 0x3FF0000000000000#64 0xBFF0000000000000#64 .rn (ctl 0x1F80#32) =
      .value 0#64 {} := by decide +kernel

/-- Tiny: I9 in each mode, -(2^-1022 - 2^-1075), the end of RD's bound for a negative value, and I14 in RZ and in RU; its
positive mirror in RD. -/
theorem witness_TinyAt :
    TinyAt .rn (exactValue 0x0010000000000000#64 0x3FEFFFFFFFFFFFFF#64 0#64) ∧
    TinyAt .rd (exactValue 0x0010000000000000#64 0x3FEFFFFFFFFFFFFF#64 0#64) ∧
    TinyAt .ru (exactValue 0x0010000000000001#64 0x3FEFFFFFFFFFFFFE#64 0#64) ∧
    TinyAt .rz (exactValue 0x0010000000000001#64 0x3FEFFFFFFFFFFFFE#64 0#64) ∧
    TinyAt .rd (exactValue 0x8010000000000001#64 0x3FEFFFFFFFFFFFFE#64 0#64) := by
  simp only [TinyAt, belowNormal]; decide +kernel

/-- Not tiny: I12 (RN), the same in RD, its positive mirror in RU, -2^-1022 in RZ, and an exact zero. -/
theorem witness_not_TinyAt :
    ¬ TinyAt .rn (exactValue 0x0010000000000001#64 0x3FEFFFFFFFFFFFFE#64 0#64) ∧
    ¬ TinyAt .rd (exactValue 0x0010000000000001#64 0x3FEFFFFFFFFFFFFE#64 0#64) ∧
    ¬ TinyAt .ru (exactValue 0x8010000000000001#64 0x3FEFFFFFFFFFFFFE#64 0#64) ∧
    ¬ TinyAt .rz (exactValue 0x0010000000000000#64 0x3FF0000000000000#64 0#64) ∧
    ¬ TinyAt .rn (exactValue 0x3FF0000000000000#64 0x3FF0000000000000#64 0xBFF0000000000000#64) := by
  simp only [TinyAt, belowNormal]; decide +kernel

/-- I12, I13 and I14: tininess is judged after rounding. -/
theorem test_tiny_after_rounding :
    fnmsub64 {} 0x0010000000000001#64 0x3FEFFFFFFFFFFFFE#64 0#64 .rn (ctl 0x1F80#32) =
      .value 0x8010000000000000#64 { pe := true } ∧
    fnmsub64 {} 0x0010000000000001#64 0x3FEFFFFFFFFFFFFE#64 0#64 .rn (ctl 0x9F80#32) =
      .value 0x8010000000000000#64 { pe := true } ∧
    fnmsub64 {} 0x0010000000000001#64 0x3FEFFFFFFFFFFFFE#64 0#64 .rz (ctl 0x7F80#32) =
      .value 0x800FFFFFFFFFFFFF#64 { ue := true, pe := true } := by decide +kernel

/-- K8, a tiny exact result; K11, one with FTZ = 1: both trap with UE where UM = 0. -/
theorem witness_UnderflowTraps :
    ({} : NumRules).trap ≠ .anyFlags ∧ (ctl 0x1780#32).um = false ∧ (ctl 0x1780#32).sae = false ∧
    ¬ DeTraps {} 0x0010000000000000#64 0x3FE0000000000000#64 0#64 (ctl 0x1780#32) ∧
    TinyAt .rn (exactValue 0x0010000000000000#64 0x3FE0000000000000#64 0#64) ∧
    fnmsub64 {} 0x0010000000000000#64 0x3FE0000000000000#64 0#64 .rn (ctl 0x1780#32) = .trap { ue := true } ∧
    fnmsub64 {} 0x0010000000000000#64 0x3FD5555555555555#64 0#64 .rn (ctl 0x9780#32) = .trap { ue := true } := by
  simp only [DeTraps, TinyAt]; decide +kernel

/-- B9, inexact; A8, exact; E1, not finite. -/
theorem witness_PrecisionIffInexact :
    (ctl 0x1F80#32).daz = false ∧
    fnmsub64 {} 0x3FF0000000000000#64 0x3FF0000000000000#64 0x3C30000000000000#64 .rn (ctl 0x1F80#32) =
      .value 0xBFF0000000000000#64 { pe := true } ∧
    fnmsub64 {} 0x3FB999999999999A#64 0x4024000000000000#64 0xBFF0000000000000#64 .rn (ctl 0x1F80#32) =
      .value 0xBC90000000000000#64 {} ∧
    isFinite 0x7FF0000000000000#64 = false ∧
    fnmsub64 {} 0x7FF0000000000000#64 0x3FF0000000000000#64 0x7FF0000000000000#64 .rn (ctl 0x1F80#32) =
      .value 0xFFF0000000000000#64 {} := by decide +kernel

/-- K18, a value with every mask 0; K15, a trap on PE with a masked DE. -/
theorem witness_TrapIffUnmasked :
    (ctl 0#32).sae = false ∧ ({} : NumRules).trap ≠ .anyFlags ∧
    fnmsub64 {} 0x4000000000000000#64 0x4008000000000000#64 0x3FF0000000000000#64 .rn (ctl 0#32) =
      .value 0xC01C000000000000#64 {} ∧
    fnmsub64 {} 0x0000000000000001#64 0x3FD5555555555555#64 0x3FD5555555555555#64 .rn (ctl 0x0F80#32) =
      .trap { de := true, pe := true } := by decide +kernel

/-- K16, K3, K5, K6, K9, K10: a trap in each stage, an exact overflow, a tiny result inexact only once denormalised. -/
theorem witness_TrapFlagsByStage :
    ({} : NumRules).trap = .inexact53 ∧
    fnmsub64 {} 0x7FF0000000000000#64 0#64 0x3FF0000000000000#64 .rn (ctl 0x1F00#32) = .trap { ie := true } ∧
    (fnmsub64 {} 0x0000000000000001#64 0x3FF0000000000000#64 0x3FF0000000000000#64 .rn (ctl 0x1E80#32) =
      .trap { de := true } ∧ (ctl 0x1E80#32).dm = false) ∧
    (fnmsub64 {} 0x7FE0000000000000#64 0x4000000000000000#64 0#64 .rn (ctl 0x1B80#32) = .trap { oe := true } ∧
      (ctl 0x1B80#32).om = false) ∧
    fnmsub64 {} 0x7FEFFFFFFFFFFFFF#64 0x7FEFFFFFFFFFFFFF#64 0x0000000000000001#64 .rn (ctl 0x1B80#32) =
      .trap { de := true, oe := true, pe := true } ∧
    (fnmsub64 {} 0x0010000000000000#64 0x3FD5555555555555#64 0#64 .rn (ctl 0x1780#32) = .trap { ue := true } ∧
      (ctl 0x1780#32).um = false) ∧
    fnmsub64 {} 0x1AA0000000000001#64 0x1AA0000000000001#64 0#64 .rn (ctl 0x1780#32) =
      .trap { ue := true, pe := true } := by decide +kernel

/-- K7, K13, K14, K15: the traps on PM = 0 alone; K7's masked response (H3's operands) has the same flags. -/
theorem witness_TrapOnPrecisionAlone :
    (ctl 0x0F80#32).pm = false ∧
    fnmsub64 {} 0x7FEFFFFFFFFFFFFF#64 0x4000000000000000#64 0#64 .rn (ctl 0x0F80#32) = .trap { oe := true, pe := true } ∧
    fnmsub64 {} 0x0010000000000000#64 0x3FD5555555555555#64 0#64 .rn (ctl 0x0F80#32) =
      .trap { ue := true, pe := true } ∧
    fnmsub64 {} 0x3FD5555555555555#64 0x3FD5555555555555#64 0x3FF0000000000000#64 .rn (ctl 0x0F80#32) =
      .trap { pe := true } ∧
    fnmsub64 {} 0x0000000000000001#64 0x3FD5555555555555#64 0x3FD5555555555555#64 .rn (ctl 0x0F80#32) =
      .trap { de := true, pe := true } ∧
    fnmsub64 {} 0x7FEFFFFFFFFFFFFF#64 0x4000000000000000#64 0#64 .rn { ctl 0x0F80#32 with pm := true } =
      .value 0xFFF0000000000000#64 { oe := true, pe := true } := by decide +kernel

/-- J4 and J6: an overflow and a flushed result under SAE with masks clear. -/
theorem witness_SaeNeverTraps :
    ({ ctl 0#32 with sae := true } : Ctl).sae = true ∧
    fnmsub64 {} 0x7FEFFFFFFFFFFFFF#64 0x4000000000000000#64 0#64 .ru { ctl 0x1F80#32 with sae := true } =
      .value 0xFFEFFFFFFFFFFFFF#64 { oe := true, pe := true } ∧
    fnmsub64 {} 0x0010000000000000#64 0x3FD5555555555555#64 0#64 .rn { ctl 0x8000#32 with sae := true } =
      .value 0x8000000000000000#64 { ue := true, pe := true } := by decide +kernel

/-- No NaN, and one NaN of the two. -/
theorem witness_MultiplicandsCommute :
    ¬(isNan 0x3FF0000000000000#64 = true ∧ isNan 0x4000000000000000#64 = true) ∧
    ¬(isNan 0x7FF8000000000001#64 = true ∧ isNan 0x3FF0000000000000#64 = true) := by decide +kernel

/-! ## Witnesses: the instructions -/

theorem vexReady_of {s : State} (h : admission s = none) (hm : s.mode = .mode64) (hu : udVex s = false)
    (ht : s.cr0TS = false) : VexReady s := by
  simp only [udVex, State.noVexMode, Bool.or_eq_false_iff, Bool.not_eq_false'] at hu
  exact ⟨⟨admission_eq_none.1 h, hm, hu.1.1.1.1.1, hu.1.1.2, hu.1.2, ht⟩, hu.2⟩

theorem evexReady_of {s : State} (h : admission s = none) (hm : s.mode = .mode64) (hu : udEvex s = false)
    (ht : s.cr0TS = false) (hv : s.cfg.maxvl = .w512 := by rfl) : EvexReady s := by
  simp only [udEvex, State.noVexMode, Bool.or_eq_false_iff, Bool.not_eq_false'] at hu
  exact ⟨⟨admission_eq_none.1 h, hm, hu.1.1.1.1.1.1, hu.1.1.1.2, hu.1.1.2, ht⟩, hv, hu.2, hu.1.2⟩

/-- The value a read gives, if it gives one. -/
def readOk (s : State) (a : Addr) : Option Quad :=
  match readQuad s false a with
  | .ok q => some q
  | .error _ => none

theorem readable_of_readOk {s : State} {a : Addr} {q : Quad} (h : readOk s a = some q) :
    Readable s a ∧ q = quadValue s.mem a := by
  unfold readOk at h
  split at h
  · rename_i q' hq; injection h with h; subst h; exact readQuad_eq_ok.1 hq
  · cases h

theorem vexOperand_reg {s : State} {o : VexOps} {q : Quad} {x : Bool} {n : BitVec 4} (ho : o.src3 = .reg x n)
    (h : q = s.low (vexReg n)) : VexOperand s o q := by
  unfold VexOperand; rw [ho]; exact h

theorem evexOperand_reg {s : State} {o : EvexOps} {q : Quad} {x : Bool} {n : BitVec 4} (ho : o.src3 = .reg x n)
    (h : q = s.low (evexReg x n)) : EvexOperand s o q := by
  unfold EvexOperand; rw [ho]; exact h

theorem quadCanonical_of {s : State} {a : Addr} (h : (quadAddrs a).all (canonical s.cfg.va) = true) : QuadCanonical s a :=
  fun x hx => canonical_eq_true.1 (List.all_eq_true.1 h x hx)

theorem quadTranslates_of {s : State} {a : Addr} (h : (quadAddrs a).all (fun x => (translate s.xlat x s.cpl).isNone) = true) :
    QuadTranslates s a :=
  fun x hx => Option.isNone_iff_eq_none.1 (List.all_eq_true.1 h x hx)

/-- The last place a 5-byte instruction can stand: RIP + 5 is the last canonical address of the lower half. -/
theorem witness_Vfnmsub132sdVexResult :
    let s : State := { demo235 with rip := 0x00007FFFFFFFFFFA#64 }
    VexReady s ∧ VexOperand s rrr 0x4014000000000000#64 ∧ NextOk s rrr.length ∧ AllMasked s :=
  ⟨vexReady_of (by decide +kernel) rfl (by decide +kernel) (by decide +kernel), vexOperand_reg rfl (by decide +kernel),
    by unfold NextOk; decide +kernel, ⟨by decide, by decide, by decide, by decide, by decide⟩⟩

/-- N5: the third operand at 402000H. -/
theorem witness_Vfnmsub213sdVexResult :
    let s := withData demo123
    VexReady s ∧ VexOperand s (rrm atRax) 0x4008000000000000#64 ∧ NextOk s (rrm atRax).length ∧ AllMasked s :=
  ⟨vexReady_of (by decide +kernel) rfl (by decide +kernel) (by decide +kernel),
    readable_of_readOk (by decide +kernel),
    by unfold NextOk; decide +kernel, ⟨by decide, by decide, by decide, by decide, by decide⟩⟩

/-- RIP-relative: 401009H + 0FF7H = 402000H. -/
theorem witness_Vfnmsub231sdVexResult :
    let s := withData demo123
    let o := rrm (.rip false false 0xFF7#32)
    VexReady s ∧ VexOperand s o 0x4008000000000000#64 ∧ NextOk s o.length ∧ AllMasked s :=
  ⟨vexReady_of (by decide +kernel) rfl (by decide +kernel) (by decide +kernel),
    readable_of_readOk (by decide +kernel),
    by unfold NextOk; decide +kernel, ⟨by decide, by decide, by decide, by decide, by decide⟩⟩

/-- Mask bit 1 in K[1], whose other bits are 0; exceptions masked. -/
theorem witness_Vfnmsub132sdEvexResult :
    let s : State := { demo235 with k := (Vector.replicate 8 0#64).set 1 1#64 }
    let o := er true 2#2 false 1#3
    EvexReady s ∧ o.reserved = false ∧ MaskOn s o ∧ EvexOperand s o 0x4014000000000000#64 ∧ NextOk s o.length ∧
    (AllMasked s ∨ o.b = true) :=
  ⟨evexReady_of (by decide +kernel) rfl (by decide +kernel) (by decide +kernel), by decide, .inr (by decide +kernel),
    evexOperand_reg rfl (by decide +kernel), by unfold NextOk; decide +kernel,
    .inl ⟨by decide, by decide, by decide, by decide, by decide⟩⟩

/-- N3: disp8 = 1 scaled by 8, no write-mask. -/
theorem witness_Vfnmsub213sdEvexResult :
    let s := withData demo123
    let o := em false 0#3 (.base false 0#4 (.d8 1#8))
    EvexReady s ∧ o.reserved = false ∧ MaskOn s o ∧ EvexOperand s o 0x4014000000000000#64 ∧ NextOk s o.length ∧
    (AllMasked s ∨ o.b = true) :=
  ⟨evexReady_of (by decide +kernel) rfl (by decide +kernel) (by decide +kernel), by decide, .inl rfl,
    readable_of_readOk (by decide +kernel), by unfold NextOk; decide +kernel,
    .inl ⟨by decide, by decide, by decide, by decide, by decide⟩⟩

/-- Embedded rounding with every exception unmasked in MXCSR. -/
theorem witness_Vfnmsub231sdEvexResult :
    let s := demo 0x7FF0000000000001#64 0x3FF0000000000000#64 0x3FF0000000000000#64 0#32
    let o := er false 3#2 true 0#3
    EvexReady s ∧ o.reserved = false ∧ MaskOn s o ∧ EvexOperand s o 0x3FF0000000000000#64 ∧ NextOk s o.length ∧
    (AllMasked s ∨ o.b = true) :=
  ⟨evexReady_of (by decide +kernel) rfl (by decide +kernel) (by decide +kernel), by decide, .inl rfl,
    evexOperand_reg rfl (by decide +kernel), by unfold NextOk; decide +kernel, .inr rfl⟩

/-- N7, a memory form whose operand cannot be read; and a register form with the parameter false. -/
theorem witness_MaskedOffForms :
    (EvexReady demo123 ∧ (em false 1#3 atRax).reserved = false ∧ MaskOff demo123 (em false 1#3 atRax) ∧
      NextOk demo123 (em false 1#3 atRax).length ∧ demo123.cfg.maskSuppressesMemFault = true) ∧
    (let s : State := { demo123 with cfg := { maskSuppressesMemFault := false } };
      EvexReady s ∧ (er true 0#2 false 1#3).reserved = false ∧ MaskOff s (er true 0#2 false 1#3) ∧
      NextOk s (er true 0#2 false 1#3).length ∧ EvexOperand s (er true 0#2 false 1#3) 0x4008000000000000#64) :=
  ⟨⟨evexReady_of (by decide +kernel) rfl (by decide +kernel) (by decide +kernel), by decide,
      by unfold MaskOff; decide +kernel, by unfold NextOk; decide +kernel, rfl⟩,
    ⟨evexReady_of (by decide +kernel) rfl (by decide +kernel) (by decide +kernel), by decide,
      by unfold MaskOff; decide +kernel, by unfold NextOk; decide +kernel, evexOperand_reg rfl (by decide +kernel)⟩⟩

/-- K1 (213 form: x is SRC2) and K18, each through a VEX and an EVEX form. -/
theorem witness_UnmaskedOutcome :
    (let s := demo 0x3FF0000000000000#64 0x7FF0000000000001#64 0x3FF0000000000000#64 0x1F00#32;
      VexReady s ∧ EvexReady s ∧ VexOperand s rrr 0x3FF0000000000000#64 ∧ MaskOn s (er false 0#2 false 0#3) ∧
      EvexOperand s (er false 0#2 false 0#3) 0x3FF0000000000000#64 ∧ (er false 0#2 false 0#3).reserved = false ∧
      fnmsub64 s.cfg.rules 0x7FF0000000000001#64 0x3FF0000000000000#64 0x3FF0000000000000#64 (mxcsrRounding s.mxcsr)
        (mxcsrControl s.mxcsr false) =
        .trap { ie := true }) ∧
    (let s := demo 0x4008000000000000#64 0x4000000000000000#64 0x3FF0000000000000#64 0#32;
      VexReady s ∧ EvexReady s ∧ VexOperand s rrr 0x3FF0000000000000#64 ∧ MaskOn s (er false 0#2 false 0#3) ∧
      EvexOperand s (er false 0#2 false 0#3) 0x3FF0000000000000#64 ∧ NextOk s rrr.length ∧
      NextOk s (er false 0#2 false 0#3).length ∧
      fnmsub64 s.cfg.rules 0x4000000000000000#64 0x4008000000000000#64 0x3FF0000000000000#64 (mxcsrRounding s.mxcsr)
        (mxcsrControl s.mxcsr false) =
        .value 0xC01C000000000000#64 {}) :=
  ⟨⟨vexReady_of (by decide +kernel) rfl (by decide +kernel) (by decide +kernel),
      evexReady_of (by decide +kernel) rfl (by decide +kernel) (by decide +kernel), vexOperand_reg rfl (by decide +kernel),
      .inl rfl, evexOperand_reg rfl (by decide +kernel), by decide, by decide +kernel⟩,
    ⟨vexReady_of (by decide +kernel) rfl (by decide +kernel) (by decide +kernel),
      evexReady_of (by decide +kernel) rfl (by decide +kernel) (by decide +kernel), vexOperand_reg rfl (by decide +kernel),
      .inl rfl, evexOperand_reg rfl (by decide +kernel), by unfold NextOk; decide +kernel, by unfold NextOk; decide +kernel,
      by decide +kernel⟩⟩

/-! ## Witnesses: frames and faults -/

theorem witness_FrameOfCompletion :
    (∃ t, exec (.vfnmsub132sdVex rrr) demo235 = .next t) ∧
    (∃ t, exec (.vfnmsub213sdVex rrr) demo235 = .next t) ∧
    (∃ t, exec (.vfnmsub231sdVex (rrm (.base false 0#4 (.d8 8#8)))) (withData demo123) = .next t) ∧
    (∃ t, exec (.vfnmsub132sdEvex (er false 0#2 false 0#3)) demo235 = .next t) ∧
    (∃ t, exec (.vfnmsub213sdEvex (er true 0#2 false 1#3)) demo123 = .next t) ∧
    (∃ t, exec (.vfnmsub231sdEvex (er false 0#2 false 1#3)) demo123 = .next t) :=
  ⟨next_of_after test_132_vex_register, next_of_after test_213_vex_register, next_of_after test_231_vex_memory,
    next_of_after test_132_evex_register, next_of_after test_213_evex_zeroing, next_of_after test_231_evex_merging⟩

/-- Every status flag 1 before: bits 0 and 5 are the ends of the range. -/
theorem witness_FlagsAreSticky :
    let s := demo 0x4000000000000000#64 0x4008000000000000#64 0x4014000000000000#64 0x1FBF#32
    (∃ t, exec (.vfnmsub132sdVex rrr) s = .next t) ∧ s.mxcsr.getLsbD 0 = true ∧ s.mxcsr.getLsbD 5 = true :=
  ⟨next_of_after (i := 0#5) (x := (low2 0xC02A000000000000#64 0xA1#64, 0x1FBF#32, 0x401005#64)) (by decide +kernel),
    by decide, by decide⟩

theorem witness_PcAdvancesByLength :
    ∃ t, exec (.vfnmsub132sdVex rrr) { demo235 with rip := 0x00007FFFFFFFFFFA#64 } = .next t :=
  next_of_after (i := 0#5) (x := (low2 0xC02A000000000000#64 0xA1#64, 0x1F80#32, 0x00007FFFFFFFFFFF#64))
    (by decide +kernel)

/-- One faulting translation, over [first, last] at CPL 3. -/
def faulting (first last : Addr) : List XlatRule :=
  [{ first := first, last := last, cpl := 3#2, cause := some { protection := true, reserved := false, key := false } }]

/-- A floating-point trap, a page fault, and an absent byte. -/
theorem witness_FaultsArePrecise :
    (∃ left, exec (.vfnmsub213sdVex rrr)
      (demo 0xC01C000000000000#64 0x4000000000000000#64 0x7FF0000000000001#64 0x1F00#32) =
        .fault (.raised .xm left)) ∧
    (∃ left, exec (.vfnmsub231sdVex (rrm atRax))
      { withData demo123 with xlat := faulting 0x402003#64 0x402003#64 } =
        .fault (.raised (.pf 5#6 0x402003#64) left)) ∧
    stoppedAt (exec (.vfnmsub231sdVex (rrm atRax)) demo123) = some 0x402000#64 :=
  ⟨fault_of_raised test_213_vex_trap, fault_of_raised (y := (0x1F80#32, 0x402003#64)) (by decide +kernel),
    by decide +kernel⟩

/-- One admitted state, or encoding, for each disjunct. -/
theorem witness_StateUndefined :
    (∀ s ∈ [{ demo123 with cr0 := 0x80000010#64 }, { demo123 with mode := .real }, { demo123 with mode := .virtual8086 },
        { demo123 with cr4 := 0x600#64 }, { demo123 with xcr0 := 0xE5#64 }, { demo123 with xcr0 := 0xE3#64 },
        { demo123 with cfg := { fma := false } }, { demo123 with cfg := { avx512f := false, maxvl := .w256 } },
        { demo123 with xcr0 := 0xC7#64 }, { demo123 with xcr0 := 0xA7#64 }, { demo123 with xcr0 := 0x67#64 }],
      Admitted s) ∧
    vexOps? (.vfnmsub132sdVex rrr) ≠ none ∧ evexOps? (.vfnmsub132sdEvex (er false 0#2 false 0#3)) ≠ none ∧
    (er false 3#2 false 0#3).reserved = true := by
  refine ⟨?_, by decide, by decide, by decide⟩
  simp only [List.mem_cons, List.not_mem_nil, or_false]
  rintro s (rfl | rfl | rfl | rfl | rfl | rfl | rfl | rfl | rfl | rfl | rfl) <;>
    exact admission_eq_none.1 (by decide +kernel)

theorem witness_DeviceNotAvailable :
    let s : State := { demo123 with cr0 := 0x8000001D#64 }
    Admitted s ∧ s.mode = .mode64 ∧ s.cr0.getLsbD 0 = true ∧ s.cr4.getLsbD 18 = true ∧ s.xcr0.extractLsb' 1 2 = 3#2 ∧
    s.cfg.fma = true ∧ s.cfg.avx512f = true ∧ s.xcr0.extractLsb' 5 3 = 7#3 ∧
    (er false 0#2 false 0#3).reserved = false ∧ s.cr0.getLsbD 3 = true :=
  ⟨admission_eq_none.1 (by decide +kernel), rfl, by decide, by decide, by decide, rfl, rfl, by decide, by decide, by decide⟩

/-- A VEX memory form in a ready state makes its read. -/
theorem vex_reads {s : State} {m : MemOp} (h : VexReady s) :
    FormReady (.vfnmsub231sdVex (rrm m)) s ∧ ReadsMemory (.vfnmsub231sdVex (rrm m)) s m :=
  ⟨⟨fun _ _ => h, fun _ e => nomatch e⟩, rfl, fun _ e => nomatch e⟩

/-- The eighth byte is the first address that is not canonical: once with base RAX, once with base RBP (SS). -/
theorem witness_NonCanonicalOperand :
    let s : State := { demo123 with g := ((Vector.replicate 16 0#64).set 0 0x00007FFFFFFFFFF9#64).set 5 0x00007FFFFFFFFFF9#64 }
    let m : MemOp := .base false 5#4 (.d8 0#8)
    (FormReady (.vfnmsub231sdVex (rrm atRax)) s ∧ ReadsMemory (.vfnmsub231sdVex (rrm atRax)) s atRax ∧
      ¬ QuadCanonical s (memAddr (.vfnmsub231sdVex (rrm atRax)) s atRax) ∧ usesSS .none atRax = false) ∧
    (FormReady (.vfnmsub231sdVex (rrm m)) s ∧ ReadsMemory (.vfnmsub231sdVex (rrm m)) s m ∧
      ¬ QuadCanonical s (memAddr (.vfnmsub231sdVex (rrm m)) s m) ∧ usesSS .none m = true) := by
  intro s m
  have h : VexReady s := vexReady_of (by decide +kernel) rfl (by decide +kernel) (by decide +kernel)
  refine ⟨⟨(vex_reads h).1, (vex_reads h).2, fun c => ?_, by decide⟩, (vex_reads h).1, (vex_reads h).2, fun c => ?_, by decide⟩
  · exact absurd (c 0x0000800000000000#64 (by decide +kernel)) (by decide +kernel)
  · exact absurd (c 0x0000800000000000#64 (by decide +kernel)) (by decide +kernel)

/-- R50 at its ends: the last address of the lower half and the first of the upper, and their neighbours, with VA_BITS 48 and
57. -/
theorem witness_Canonical :
    Canonical .va48 0x00007FFFFFFFFFFF#64 ∧ ¬ Canonical .va48 0x0000800000000000#64 ∧
    Canonical .va48 0xFFFF800000000000#64 ∧ ¬ Canonical .va48 0xFFFF7FFFFFFFFFFF#64 ∧
    Canonical .va57 0x00FFFFFFFFFFFFFF#64 ∧ ¬ Canonical .va57 0x0100000000000000#64 ∧
    Canonical .va57 0xFF00000000000000#64 ∧ ¬ Canonical .va57 0xFEFFFFFFFFFFFFFF#64 := by decide +kernel

/-- The first and the last byte of the operand at 402000H. -/
theorem witness_OperandPageFault :
    (∀ j ∈ [0, 7], j < 8) ∧
    (let s : State := { demo123 with xlat := faulting 0x402000#64 0x402FFF#64 };
      FormReady (.vfnmsub231sdVex (rrm atRax)) s ∧ ReadsMemory (.vfnmsub231sdVex (rrm atRax)) s atRax ∧
      QuadCanonical s (memAddr (.vfnmsub231sdVex (rrm atRax)) s atRax) ∧
      translate s.xlat (memAddr (.vfnmsub231sdVex (rrm atRax)) s atRax + BitVec.ofNat 64 0) s.cpl =
        some { protection := true, reserved := false, key := false }) ∧
    (let s : State := { demo123 with xlat := faulting 0x402007#64 0x402007#64 };
      FormReady (.vfnmsub231sdVex (rrm atRax)) s ∧ ReadsMemory (.vfnmsub231sdVex (rrm atRax)) s atRax ∧
      QuadCanonical s (memAddr (.vfnmsub231sdVex (rrm atRax)) s atRax) ∧
      (∀ k, k < 7 →
        translate s.xlat (memAddr (.vfnmsub231sdVex (rrm atRax)) s atRax + BitVec.ofNat 64 k) s.cpl = none) ∧
      translate s.xlat (memAddr (.vfnmsub231sdVex (rrm atRax)) s atRax + BitVec.ofNat 64 7) s.cpl =
        some { protection := true, reserved := false, key := false }) :=
  ⟨by decide,
    ⟨(vex_reads (vexReady_of (by decide +kernel) rfl (by decide +kernel) (by decide +kernel))).1,
      (vex_reads (vexReady_of (by decide +kernel) rfl (by decide +kernel) (by decide +kernel))).2,
      quadCanonical_of (by decide +kernel), by decide +kernel⟩,
    ⟨(vex_reads (vexReady_of (by decide +kernel) rfl (by decide +kernel) (by decide +kernel))).1,
      (vex_reads (vexReady_of (by decide +kernel) rfl (by decide +kernel) (by decide +kernel))).2,
      quadCanonical_of (by decide +kernel), by decide +kernel, by decide +kernel⟩⟩

/-- The operand of N4 at 402004H with alignment checking on. -/
theorem witness_AlignmentCheck :
    let s : State := { withData demo123 with cr0 := 0x80040011#64, rflags := 0x40002#64 }
    let m : MemOp := .base false 0#4 (.d8 4#8)
    FormReady (.vfnmsub231sdVex (rrm m)) s ∧ ReadsMemory (.vfnmsub231sdVex (rrm m)) s m ∧
    QuadCanonical s (memAddr (.vfnmsub231sdVex (rrm m)) s m) ∧
    QuadTranslates s (memAddr (.vfnmsub231sdVex (rrm m)) s m) ∧ s.cr0.getLsbD 18 = true ∧
    s.rflags.getLsbD 18 = true ∧ s.cpl = 3#2 ∧ (memAddr (.vfnmsub231sdVex (rrm m)) s m).toNat % 8 ≠ 0 :=
  ⟨(vex_reads (vexReady_of (by decide +kernel) rfl (by decide +kernel) (by decide +kernel))).1,
    (vex_reads (vexReady_of (by decide +kernel) rfl (by decide +kernel) (by decide +kernel))).2,
    quadCanonical_of (by decide +kernel), quadTranslates_of (by decide +kernel), by decide, by decide, rfl,
    by decide +kernel⟩

/-- A device window over the last byte; no byte at all; the eighth byte alone missing. -/
theorem witness_UnbackedReadsStop :
    (let s : State := { withData demo123 with devices := [{ first := 0x402007#64, last := 0x402FFF#64 }] };
      FormReady (.vfnmsub231sdVex (rrm atRax)) s ∧ ReadsMemory (.vfnmsub231sdVex (rrm atRax)) s atRax ∧
      QuadCanonical s (memAddr (.vfnmsub231sdVex (rrm atRax)) s atRax) ∧
      QuadTranslates s (memAddr (.vfnmsub231sdVex (rrm atRax)) s atRax) ∧
      (memAddr (.vfnmsub231sdVex (rrm atRax)) s atRax).toNat % 8 = 0 ∧
      0x402007#64 ∈ quadAddrs (memAddr (.vfnmsub231sdVex (rrm atRax)) s atRax)) ∧
    (demo123.devices = [] ∧
      memByte demo123.mem (memAddr (.vfnmsub231sdVex (rrm atRax)) demo123 atRax + BitVec.ofNat 64 0).toNat = none) ∧
    (let s := put demo123 0x402000#64 [0#8, 1#8, 2#8, 3#8, 4#8, 5#8, 6#8];
      FormReady (.vfnmsub231sdVex (rrm atRax)) s ∧ ReadsMemory (.vfnmsub231sdVex (rrm atRax)) s atRax ∧
      QuadCanonical s (memAddr (.vfnmsub231sdVex (rrm atRax)) s atRax) ∧
      QuadTranslates s (memAddr (.vfnmsub231sdVex (rrm atRax)) s atRax) ∧
      (memAddr (.vfnmsub231sdVex (rrm atRax)) s atRax).toNat % 8 = 0 ∧ s.devices = [] ∧
      (∀ k, k < 7 →
        memByte s.mem (memAddr (.vfnmsub231sdVex (rrm atRax)) s atRax + BitVec.ofNat 64 k).toNat ≠ none) ∧
      memByte s.mem (memAddr (.vfnmsub231sdVex (rrm atRax)) s atRax + BitVec.ofNat 64 7).toNat = none) :=
  ⟨⟨(vex_reads (vexReady_of (by decide +kernel) rfl (by decide +kernel) (by decide +kernel))).1,
      (vex_reads (vexReady_of (by decide +kernel) rfl (by decide +kernel) (by decide +kernel))).2,
      quadCanonical_of (by decide +kernel), quadTranslates_of (by decide +kernel), by decide +kernel, by decide +kernel⟩,
    ⟨rfl, by decide +kernel⟩,
    ⟨(vex_reads (vexReady_of (by decide +kernel) rfl (by decide +kernel) (by decide +kernel))).1,
      (vex_reads (vexReady_of (by decide +kernel) rfl (by decide +kernel) (by decide +kernel))).2,
      quadCanonical_of (by decide +kernel), quadTranslates_of (by decide +kernel), by decide +kernel, rfl,
      by decide +kernel, by decide +kernel⟩⟩

theorem witness_ReadIsLittleEndian : readQuad (withData demo123) false 0x402000#64 = .ok 0x4008000000000000#64 :=
  readQuad_eq_ok.2 (readable_of_readOk (by decide +kernel))

/-- 67H alone and before or after a segment override. -/
theorem witness_AddressSize32 :
    addr32 (prefixesOf (.vfnmsub231sdVex { rrm atRax with pre := .a32 })) = true ∧
    addr32 (prefixesOf (.vfnmsub213sdVex { rrm atRax with pre := .segA32 .fs })) = true ∧
    addr32 (prefixesOf (.vfnmsub132sdEvex { em false 0#3 atRax with pre := .a32Seg .gs })) = true := by decide

/-- The operand of N3 through each addressing form under 67H, its upper address bits dropped. -/
theorem test_address32 :
    let s := withData { demo123 with g := (demo123.g.set 0 0xFFFFFFFF00402000#64).set 1 0xFFFFFFFF00200800#64 }
    memAddr (.vfnmsub231sdVex { rrm atRax with pre := .a32 }) s atRax = 0x402000#64 ∧
    memAddr (.vfnmsub231sdVex { rrm atRax with pre := .a32 }) s (.sib 1#2 1#4 1#4 (.d32 0xFFE00800#32)) = 0x402000#64 ∧
    memAddr (.vfnmsub231sdVex { rrm atRax with pre := .a32Seg .fs }) s (.sibNoBase false 1#2 1#4 0x1000#32) =
      0x402010#64 := by decide +kernel

/-- A VEX and an EVEX form without 67H, one under a segment override; the ends of the range of `disp8`. -/
theorem witness_Disp8Scaling :
    addr32 (prefixesOf (.vfnmsub231sdEvex (em false 0#3 atRax))) = false ∧
    addr32 (prefixesOf (.vfnmsub132sdVex { rrm atRax with pre := .seg .gs })) = false ∧
    disp8Scale (.vfnmsub231sdEvex (em false 0#3 atRax)) = 8 ∧ disp8Scale (.vfnmsub132sdVex (rrm atRax)) = 1 ∧
    dispOffset 8 (.d8 0x80#8) = -1024 ∧ dispOffset 8 (.d8 0x7F#8) = 1016 := by decide

/-- RIP-relative from the instruction's own length; SIB with index number 4, which adds nothing; SIB without a base. -/
theorem test_address64 :
    memAddr (.vfnmsub231sdVex (rrm (.rip false false 0xFF7#32))) demo123 (.rip false false 0xFF7#32) = 0x402000#64 ∧
    memAddr (.vfnmsub231sdVex (rrm (.sib 3#2 4#4 0#4 (.d8 1#8)))) { demo123 with g := demo123.g.set 4 7#64 }
      (.sib 3#2 4#4 0#4 (.d8 1#8)) = 0x402001#64 ∧
    memAddr (.vfnmsub231sdEvex (em false 0#3 (.sibNoBase false 3#2 0#4 0xFFFFFFFF#32))) demo123
      (.sibNoBase false 3#2 0#4 0xFFFFFFFF#32) = 0x200FFFF#64 := by decide +kernel

/-- K[1] with every bit but bit 0 changed. -/
theorem witness_OnlyMaskBitZeroRead :
    evexOps? (.vfnmsub231sdEvex (er false 0#2 false 1#3)) ≠ none ∧
    ∀ j : BitVec 3, (({ demo123 with k := Vector.replicate 8 0#64 } : State).readK j).getLsbD 0 =
      (demo123.readK j).getLsbD 0 := by decide +kernel

theorem witness_RegisterFormIgnoresGeneral : src3Of (.vfnmsub231sdVex rrr) = .reg false 2#4 := by decide

/-- V[1] with its bits above 63 changed: for a form that completes and one that traps (P4). -/
theorem witness_SourceUpperBitsIgnored :
    let trapping := demo 0xC01C000000000000#64 0x4000000000000000#64 0x7FF0000000000001#64 0x1F00#32
    let v := demo235.v.set 1 (low2 0x4008000000000000#64 0#64)
    let w := trapping.v.set 1 (low2 0x4000000000000000#64 0#64)
    ((∀ r, (({ demo235 with v := v } : State).readV r).extractLsb' 0 64 = (demo235.readV r).extractLsb' 0 64) ∧
      ({ demo235 with v := v } : State).readV (destReg (.vfnmsub132sdVex rrr)) =
        demo235.readV (destReg (.vfnmsub132sdVex rrr)) ∧
      ∃ t, exec (.vfnmsub132sdVex rrr) demo235 = .next t) ∧
    ((∀ r, (({ trapping with v := w } : State).readV r).extractLsb' 0 64 = (trapping.readV r).extractLsb' 0 64) ∧
      ({ trapping with v := w } : State).readV (destReg (.vfnmsub213sdVex rrr)) =
        trapping.readV (destReg (.vfnmsub213sdVex rrr)) ∧
      ∃ left, exec (.vfnmsub213sdVex rrr) trapping = .fault (.raised .xm left)) :=
  ⟨⟨by decide +kernel, by decide +kernel, next_of_after test_132_vex_register⟩,
    by decide +kernel, by decide +kernel, fault_of_raised test_213_vex_trap⟩

end Sys2Proof.Tests
end

/-! The family 10_state.md: what a form that completes leaves, the invariant, the values after reset, and what an
outcome does not depend on. -/

namespace Sys2Proof.Machine

open Sys2Proof

/-! ## The two families of forms: one meaning for the three constructors of each -/

theorem vexOps_or_evexOps (i : Instr) : (∃ o, vexOps? i = some o) ∨ ∃ o, evexOps? i = some o := by
  cases i with
  | vfnmsub132sdVex o => exact .inl ⟨o, rfl⟩
  | vfnmsub213sdVex o => exact .inl ⟨o, rfl⟩
  | vfnmsub231sdVex o => exact .inl ⟨o, rfl⟩
  | vfnmsub132sdEvex o => exact .inr ⟨o, rfl⟩
  | vfnmsub213sdEvex o => exact .inr ⟨o, rfl⟩
  | vfnmsub231sdEvex o => exact .inr ⟨o, rfl⟩

section Families

variable {i : Instr}

/-- A VEX form is ExecVEX with the parts of R101's table. -/
theorem exec_of_vexOps {o : VexOps} (h : vexOps? i = some o) (s : State) : exec i s = execVex (rolesOf i) o s := by
  cases i <;> cases h <;> rfl

theorem destReg_of_vexOps {o : VexOps} (h : vexOps? i = some o) : destReg i = vexReg o.dest := by
  cases i <;> cases h <;> rfl

theorem length_of_vexOps {o : VexOps} (h : vexOps? i = some o) : i.length = o.length := by
  cases i <;> cases h <;> rfl

theorem src3Of_of_vexOps {o : VexOps} (h : vexOps? i = some o) : src3Of i = o.src3 := by
  cases i <;> cases h <;> rfl

/-- An EVEX form is ExecEVEX with the parts of R101's table. -/
theorem exec_of_evexOps {o : EvexOps} (h : evexOps? i = some o) (s : State) : exec i s = execEvex (rolesOf i) o s := by
  cases i <;> cases h <;> rfl

theorem destReg_of_evexOps {o : EvexOps} (h : evexOps? i = some o) : destReg i = o.dest := by
  cases i <;> cases h <;> rfl

theorem length_of_evexOps {o : EvexOps} (h : evexOps? i = some o) : i.length = o.length := by
  cases i <;> cases h <;> rfl

theorem src3Of_of_evexOps {o : EvexOps} (h : evexOps? i = some o) : src3Of i = o.src3 := by
  cases i <;> cases h <;> rfl

end Families

/-! ## What a form that completes leaves -/

/-- ORing no flag into MXCSR leaves the state as it is. -/
@[simp] theorem orFlags_none (s : State) : s.orFlags {} = s := by
  simp [State.orFlags, flagBits]

/-- `t` is `s` after `i` delivered `q` with the flags `f`; a destination beyond V[15] needs AVX512F (D24). -/
structure CompletesWith (i : Instr) (s t : State) (f : Flags) (q : Quad) : Prop where
  nextOk : NextOk s i.length
  high : s.cfg.avx512f = false → (destReg i).toNat < 16
  left : t = ((s.orFlags f).writeLow (destReg i) q).setRip (s.rip + BitVec.ofNat 64 i.length)

/-- A VEX form names its registers with 4 bits. -/
theorem vexReg_lt (n : BitVec 4) : (vexReg n).toNat < 16 := by
  rw [vexReg, BitVec.toNat_setWidth]
  exact (Nat.mod_le _ _).trans_lt n.isLt

theorem avx512f_of_udEvex {s : State} (h : udEvex s = false) : s.cfg.avx512f = true := by
  simp only [udEvex, Bool.or_eq_false_iff, Bool.not_eq_false'] at h
  exact h.2

/-- Every next state of exec, for all six forms at once: a masked-off element and one computed under SAE are deliveries
without flags. -/
theorem exec_next {i : Instr} {s t : State} (h : exec i s = .next t) : ∃ f q, CompletesWith i s t f q := by
  obtain ⟨o, ho⟩ | ⟨o, ho⟩ := vexOps_or_evexOps i
  · rw [exec_of_vexOps ho] at h
    obtain ⟨s3, res, f, -, -, -, -, -, hn, rfl⟩ := execVex_next h
    refine ⟨f, res, by rwa [length_of_vexOps ho], fun _ => ?_,
      by rw [destReg_of_vexOps ho, length_of_vexOps ho]⟩
    rw [destReg_of_vexOps ho]
    exact vexReg_lt o.dest
  · rw [exec_of_evexOps ho] at h
    obtain ⟨-, hud, -, -, hn, hcase⟩ := execEvex_next h
    have hlen : NextOk s i.length := by rwa [length_of_evexOps ho]
    have hhigh : s.cfg.avx512f = false → (destReg i).toNat < 16 := fun hf => by
      simp [avx512f_of_udEvex hud] at hf
    obtain ⟨-, s3, res, f, -, -, rfl⟩ | ⟨-, rfl⟩ := hcase
    · refine ⟨if embeddedRounding o then {} else f, res, hlen, hhigh, ?_⟩
      rw [destReg_of_evexOps ho, length_of_evexOps ho]
      split <;> simp
    · refine ⟨{}, if o.z then 0#64 else s.low o.dest, hlen, hhigh, ?_⟩
      rw [destReg_of_evexOps ho, length_of_evexOps ho, orFlags_none]

/-- A step that goes on executed an instruction. -/
theorem step_next {s t : State} (h : step s = .next t) : ∃ i, exec i s = .next t := by
  unfold step at h
  split at h
  · cases h
  split at h
  · rename_i i _ _
    exact ⟨i, h⟩
  · exact absurd h (raise_ne_next _ _ _)
  · cases h
  · cases h
  · exact absurd h (stop_ne_next _ _ _)

/-- Settles O43: the one place that moves RIP is the end of a form that completes. -/
theorem pcAdvancesByLength : Obligations.PcAdvancesByLength := by
  intro i s t h
  obtain ⟨f, q, hc⟩ := exec_next h
  obtain ⟨hbound, hcanonical⟩ := hc.nextOk
  rw [hc.left]
  exact ⟨rfl, hbound, hcanonical⟩

/-! ## The invariant -/

/-- Every MAXVL holds the 128 bits a form writes. -/
theorem maxvlBits_ge (m : MaxVl) : 128 ≤ maxvlBits m := by
  cases m <;> decide

/-- The status flags are below MXCSR's reserved bits (R30, R32). -/
theorem mxcsr_reserved_orFlags (s : State) (f : Flags) :
    (s.orFlags f).mxcsr.extractLsb' 16 16 = s.mxcsr.extractLsb' 16 16 := by
  refine BitVec.eq_of_getLsbD_eq fun k hk => ?_
  have hflag : (flagBits f).getLsbD (16 + k) = false := BitVec.getLsbD_of_ge _ _ (by omega)
  simp [hflag, -BitVec.getLsbD_eq_getElem]

/-- A form that completes keeps the invariant. -/
theorem CompletesWith.inv {i : Instr} {s t : State} {f : Flags} {q : Quad} (hc : CompletesWith i s t f q)
    (hi : Inv s) : Inv t := by
  obtain ⟨⟨-, hcanonical⟩, hhigh, rfl⟩ := hc
  refine ⟨hi.mem, (mxcsr_reserved_orFlags s f).trans hi.mxcsr, fun r => ?_, fun hf r hr => ?_, hi.k,
    hi.config, hcanonical⟩
  · rw [readV_setRip]
    by_cases hd : r = destReg i
    · subst hd
      exact (writeLow_lt _ _ q).trans_le (Nat.pow_le_pow_right (by decide) (maxvlBits_ge _))
    · rw [readV_writeLow_ne _ q hd]
      exact hi.v r
  · have hd : r ≠ destReg i := by
      rintro rfl
      exact absurd (hhigh hf) (by omega)
    rw [readV_setRip, readV_writeLow_ne _ q hd]
    exact hi.high hf r hr

/-- Settles O15: a step that goes on is a form that completes, and that keeps the invariant. -/
theorem stepKeepsInvariant : Obligations.StepKeepsInvariant := by
  intro s t hi h
  obtain ⟨i, he⟩ := step_next h
  obtain ⟨f, q, hc⟩ := exec_next he
  exact hc.inv hi

/-! ## Reset -/

theorem reset_readV (i : BitVec 5) : State.reset.readV i = 0#512 := Vector.getElem_replicate _

theorem reset_readK (j : BitVec 3) : State.reset.readK j = 0#64 := Vector.getElem_replicate _

theorem reset_readG (r : BitVec 4) : State.reset.readG r = 0#64 := Vector.getElem_replicate _

/-- Settles O12, by reading the fields of the reset state. -/
theorem resetValues : Obligations.ResetValues :=
  ⟨reset_readV, reset_readK, rfl, fun r _ => reset_readG r, rfl, rfl, rfl, by decide, rfl, rfl, rfl, rfl, rfl, rfl, rfl⟩

/-- Settles O14: after reset every register is zero and memory is empty. -/
theorem invariantAtReset : Obligations.InvariantAtReset where
  mem := reset_mem_wf
  mxcsr := by decide
  v i := by simp only [reset_readV, BitVec.toNat_ofNat, Nat.zero_mod, Nat.two_pow_pos]
  high _ i _ := reset_readV i
  k j := by simp only [reset_readK, BitVec.toNat_ofNat, Nat.zero_mod, Nat.two_pow_pos]
  config := by decide
  rip := canonical_eq_true.1 (by decide)

/-! ## Fetch outside the canonical addresses -/

/-- At a non-canonical address not even the first byte is fetched (R21). -/
theorem fetch_of_not_canonical {s : State} (h : ¬ Canonical s.cfg.va s.fetchBase) :
    fetch s = ([], .refuse .pcLeavesCanonical) := by
  have hc : canonical s.cfg.va s.fetchBase = false := by
    rwa [← Bool.not_eq_true, canonical_eq_true]
  have hb : fetchByte s 0 = .error (.refuse .pcLeavesCanonical) := by simp [fetchByte, hc]
  simp [fetch, maxInstrBytes, fetchFrom, hb]

/-- Settles O11: with no byte fetched the decoder needs more, and the step ends as the fetch did. -/
theorem stepOutsideCanonicalRefused : Obligations.StepOutsideCanonicalRefused := by
  intro s ha hc
  simp [step, admission_eq_none.2 ha, fetch_of_not_canonical hc, decode, decodeFrom, stop]

/-! ## Non-interference: what a form reads, and changes of the state that it does not see -/

/-- `s'` answers every access to memory as `s` does, and forms the same addresses. -/
structure SameAccess (s s' : State) : Prop where
  mem : s'.mem = s.mem := by rfl
  xlat : s'.xlat = s.xlat := by rfl
  devices : s'.devices = s.devices := by rfl
  cfg : s'.cfg = s.cfg := by rfl
  cpl : s'.cpl = s.cpl := by rfl
  aligned : s'.alignmentChecked = s.alignmentChecked := by rfl
  rip : s'.rip = s.rip := by rfl
  g : s'.g = s.g := by rfl
  fsBase : s'.fsBase = s.fsBase := by rfl
  gsBase : s'.gsBase = s.gsBase := by rfl

theorem SameAccess.readQuad_eq {s s' : State} (h : SameAccess s s') (ss : Bool) (a : Addr) :
    readQuad s' ss a = readQuad s ss a := by
  have hp : s'.pageFault false = s.pageFault false := by funext x; simp [State.pageFault, h.xlat, h.cpl]
  have hd : s'.isDevice = s.isDevice := by funext x; simp [State.isDevice, h.devices]
  have hm : s'.isAbsent = s.isAbsent := by funext x; simp [State.isAbsent, h.mem]
  simp only [readQuad, hp, hd, hm, h.cfg, h.aligned, h.mem]

theorem SameAccess.linearAddr_eq {s s' : State} (h : SameAccess s s') (pre : Prefixes) (n : Nat) (next : Addr)
    (m : MemOp) : linearAddr s' pre n next m = linearAddr s pre n next m := by
  have hg (r : BitVec 4) : s'.readG r = s.readG r := by simp only [State.readG, h.g]
  have hsum : addressSum s' n next m = addressSum s n next m := by
    cases m <;> simp only [addressSum, indexValue, hg]
  simp only [linearAddr, segmentBase, effectiveAddr, hsum, h.fsBase, h.gsBase]

/-- A memory operand is read alike, a RIP-relative one too. -/
theorem SameAccess.readOperand_eq {s s' : State} (h : SameAccess s s') (pre : Prefixes) (n len : Nat) (m : MemOp) :
    readQuad s' (usesSS pre m) (linearAddr s' pre n (s'.nextPc len) m) =
      readQuad s (usesSS pre m) (linearAddr s pre n (s.nextPc len) m) := by
  simp only [State.nextPc, h.rip, h.linearAddr_eq, h.readQuad_eq]

/-- `s'` shows the form `i` what `s` does: the state checks, FNMSUB64's controls, the low quadwords of the vector
registers, memory if the form has a memory operand, and the mask bit of an EVEX form. -/
structure SameReads (i : Instr) (s s' : State) : Prop where
  admission : admission s' = admission s := by rfl
  udVex : udVex s' = udVex s := by rfl
  udEvex : udEvex s' = udEvex s := by rfl
  ts : s'.cr0TS = s.cr0TS := by rfl
  osxmmexcpt : s'.osxmmexcpt = s.osxmmexcpt := by rfl
  cfg : s'.cfg = s.cfg := by rfl
  rip : s'.rip = s.rip := by rfl
  rm : s'.rm = s.rm := by rfl
  ctl : ∀ sae, s'.ctl sae = s.ctl sae := by exact fun _ => rfl
  low : ∀ r, s'.low r = s.low r := by exact fun _ => rfl
  access : ∀ m, src3Of i = .mem m → SameAccess s s' := by exact fun _ _ => {}
  mask : ∀ o, evexOps? i = some o → maskBit s' o = maskBit s o := by exact fun _ _ => rfl

theorem SameReads.vexSrc3_eq {i : Instr} {s s' : State} (h : SameReads i s s') {o : VexOps}
    (ho : vexOps? i = some o) : vexSrc3 s' o = vexSrc3 s o := by
  unfold vexSrc3
  cases hm : o.src3 with
  | reg x n => simp only [h.low]
  | mem m => exact (h.access m ((src3Of_of_vexOps ho).trans hm)).readOperand_eq _ _ _ _

theorem SameReads.evexSrc3_eq {i : Instr} {s s' : State} (h : SameReads i s s') {o : EvexOps}
    (ho : evexOps? i = some o) : evexSrc3 s' o = evexSrc3 s o := by
  unfold evexSrc3
  cases hm : o.src3 with
  | reg x n => simp only [h.low]
  | mem m => exact (h.access m ((src3Of_of_evexOps ho).trans hm)).readOperand_eq _ _ _ _

/-- The change `h` of the state `s` commutes with what a form with destination `d` can write: CR2 at a page fault,
MXCSR's flags at a trap, and the delivery of a result. -/
structure CommutesWithWrites (h : State → State) (d : BitVec 5) (s : State) : Prop where
  setCr2 : ∀ a, (h s).setCr2 a = h (s.setCr2 a) := by exact fun _ => rfl
  orFlags : ∀ f, (h s).orFlags f = h (s.orFlags f) := by exact fun _ => rfl
  deliver : ∀ f q a, (((h s).orFlags f).writeLow d q).setRip a = h (((s.orFlags f).writeLow d q).setRip a) := by
    exact fun _ _ _ => rfl

section Commutes

variable {h : State → State} {d : BitVec 5} {s : State}

theorem CommutesWithWrites.raise_eq (hc : CommutesWithWrites h d s) (x : Exc) :
    raise x (h s) = mapResult h (raise x s) := by
  cases x with
  | pf ec a => simp only [raise, mapResult, hc.setCr2]
  | ud => rfl
  | nm => rfl
  | ss => rfl
  | gp => rfl
  | ac => rfl
  | xm => rfl

theorem CommutesWithWrites.stop_eq (hc : CommutesWithWrites h d s) (st : Stop) :
    stop st (h s) = mapResult h (stop st s) := by
  cases st with
  | exc x => exact hc.raise_eq x
  | absent a => rfl
  | refuse r => rfl

theorem CommutesWithWrites.fpTrap_eq (hc : CommutesWithWrites h d s) (hx : (h s).osxmmexcpt = s.osxmmexcpt)
    (f : Flags) : fpTrap f (h s) = mapResult h (fpTrap f s) := by
  simp only [Machine.fpTrap_eq, hx, hc.orFlags, mapResult]

/-- The end of an instruction that delivers `q` with the flags `f`. -/
theorem CommutesWithWrites.complete_eq (hc : CommutesWithWrites h d s) (hcfg : (h s).cfg = s.cfg)
    (hrip : (h s).rip = s.rip) (len : Nat) (f : Flags) (q : Quad) :
    complete len (((h s).orFlags f).writeLow d q) = mapResult h (complete len ((s.orFlags f).writeLow d q)) := by
  have hok : NextOk (((h s).orFlags f).writeLow d q) len ↔ NextOk ((s.orFlags f).writeLow d q) len := by
    simp [NextOk, hcfg, hrip]
  by_cases hn : NextOk ((s.orFlags f).writeLow d q) len
  · rw [complete_of_ok hn, complete_of_ok (hok.2 hn), hc.deliver]
    simp [mapResult, hrip]
  · rw [complete_of_not hn, complete_of_not (hok.not.2 hn)]
    rfl

end Commutes

section Noninterference

variable {i : Instr} {h : State → State} {s : State}

theorem execVex_map {o : VexOps} (ho : vexOps? i = some o) (hr : SameReads i s (h s))
    (hc : CommutesWithWrites h (vexReg o.dest) s) (parts : Parts) :
    execVex parts o (h s) = mapResult h (execVex parts o s) := by
  unfold execVex
  rw [hr.admission, hr.udVex, hr.ts, hr.vexSrc3_eq ho]
  split
  · rfl
  split
  · exact hc.raise_eq _
  split
  · exact hc.raise_eq _
  split
  · exact hc.stop_eq _
  simp only [vexCompute, hr.cfg, hr.rm, hr.ctl, hr.low]
  split
  · exact hc.fpTrap_eq hr.osxmmexcpt _
  · exact hc.complete_eq hr.cfg hr.rip _ _ _

theorem evexMaskedOff_map {o : EvexOps} (hr : SameReads i s (h s)) (hc : CommutesWithWrites h o.dest s) :
    evexMaskedOff o (h s) = mapResult h (evexMaskedOff o s) := by
  simpa only [evexMaskedOff, orFlags_none, hr.low] using
    hc.complete_eq hr.cfg hr.rip o.length {} (if o.z then 0#64 else s.low o.dest)

theorem evexCompute_map {o : EvexOps} (hr : SameReads i s (h s)) (hc : CommutesWithWrites h o.dest s) (parts : Parts)
    (s3 : Quad) : evexCompute parts o s3 (h s) = mapResult h (evexCompute parts o s3 s) := by
  have hrm : evexRm (h s) o = evexRm s o := by simp only [evexRm, hr.rm]
  simp only [evexCompute, hr.cfg, hrm, hr.ctl, hr.low]
  split
  · exact hc.fpTrap_eq hr.osxmmexcpt _
  rename_i res f _
  split
  · simpa only [orFlags_none] using hc.complete_eq hr.cfg hr.rip o.length {} res
  · exact hc.complete_eq hr.cfg hr.rip _ _ _

theorem execEvex_map {o : EvexOps} (ho : evexOps? i = some o) (hr : SameReads i s (h s))
    (hc : CommutesWithWrites h o.dest s) (parts : Parts) :
    execEvex parts o (h s) = mapResult h (execEvex parts o s) := by
  have hsup : readSuppressed (h s) o = readSuppressed s o := by simp only [readSuppressed, hr.mask o ho, hr.cfg]
  unfold execEvex
  rw [hr.admission, hr.udEvex, hr.ts, hr.evexSrc3_eq ho, hr.mask o ho, hsup]
  split
  · rfl
  split
  · exact hc.raise_eq _
  split
  · exact hc.raise_eq _
  split
  · exact evexMaskedOff_map hr hc
  split
  · exact hc.stop_eq _
  split
  · exact evexCompute_map hr hc parts _
  · exact evexMaskedOff_map hr hc

/-- Non-interference: a change of the state that the form does not read and that commutes with what it writes goes
through the form to its outcome, whichever that is. -/
theorem exec_map (hr : SameReads i s (h s)) (hc : CommutesWithWrites h (destReg i) s) :
    exec i (h s) = mapResult h (exec i s) := by
  obtain ⟨o, ho⟩ | ⟨o, ho⟩ := vexOps_or_evexOps i
  · rw [destReg_of_vexOps ho] at hc
    rw [exec_of_vexOps ho, exec_of_vexOps ho, execVex_map ho hr hc]
  · rw [destReg_of_evexOps ho] at hc
    rw [exec_of_evexOps ho, exec_of_evexOps ho, execEvex_map ho hr hc]

end Noninterference

/-! ## Registers that are not read -/

/-- Settles O56: the mask bit is all that a form takes from the write-mask registers. -/
theorem onlyMaskBitZeroRead : Obligations.OnlyMaskBitZeroRead := by
  intro i s k hk
  refine exec_map (h := fun t => { t with k := k }) { mask := fun o ho => ?_ } {}
  simp only [maskBit, hk o.aaa (by simp [ho])]

/-- Settles O57: only the address of a memory operand takes general registers. -/
theorem registerFormIgnoresGeneral : Obligations.RegisterFormIgnoresGeneral := by
  intro i s g x n hsrc
  refine exec_map (h := fun t => { t with g := g }) { access := fun m hm => ?_ } {}
  rw [hsrc] at hm
  cases hm

/-- `t` with the vector registers `v`, but for its own register `d`. -/
def withVectorsBut (v : Vector Vec 32) (d : BitVec 5) (t : State) : State :=
  ({ t with v := v } : State).writeV d (t.readV d)

/-- Writing back what stands in a register changes nothing. -/
theorem writeV_readV (s : State) (d : BitVec 5) : s.writeV d (s.readV d) = s := by
  simp [State.writeV, State.readV]

/-- The last of two writes to a register counts. -/
theorem writeV_writeV (s : State) (d : BitVec 5) (x y : Vec) : (s.writeV d x).writeV d y = s.writeV d y := by
  simp [State.writeV]

/-- The destination write keeps its register's bits 127:64, so it does the same in both orders with the replacement of
the other registers. -/
theorem withVectorsBut_commutes (v : Vector Vec 32) (d : BitVec 5) (s : State) :
    CommutesWithWrites (withVectorsBut v d) d s where
  deliver f q a := by
    have hhi : ((withVectorsBut v d s).orFlags f).hi d = (s.orFlags f).hi d := by
      simp [State.hi, withVectorsBut]
    unfold State.writeLow
    rw [hhi]
    simp only [withVectorsBut, readV_setRip, readV_writeV_self]
    exact congrArg (fun t => (t.orFlags f).setRip a) (writeV_writeV { s with v := v } d (s.readV d) _)

/-- Settles O58: the new registers are the old state seen through `withVectorsBut`, the destination being the same. -/
theorem sourceUpperBitsIgnored : Obligations.SourceUpperBitsIgnored := by
  intro i s v hlow hdest
  have heq : withVectorsBut v (destReg i) s = { s with v := v } := by
    rw [withVectorsBut, ← hdest, writeV_readV]
  have hr : SameReads i s (withVectorsBut v (destReg i) s) := by
    rw [heq]
    exact { low := hlow }
  have hmap := exec_map hr (withVectorsBut_commutes v (destReg i) s)
  rwa [heq] at hmap

/-! ## Control bits that are not read -/

/-- Inverting bit `b` leaves the others alone. -/
theorem getLsbD_xor_twoPow {w b k : Nat} (x : BitVec w) (hk : k ≠ b) :
    (x ^^^ BitVec.twoPow w b).getLsbD k = x.getLsbD k := by
  rw [BitVec.getLsbD_xor, BitVec.getLsbD_twoPow, decide_eq_false hk.symm, Bool.and_false, Bool.xor_false]

/-- ZM stands at bit 9 of MXCSR (R30). -/
theorem getLsbD_xor_zm (m : BitVec 32) {k : Nat} (hk : k ≠ 9) : (m ^^^ 0x200#32).getLsbD k = m.getLsbD k :=
  getLsbD_xor_twoPow (b := 9) m hk

theorem extractLsb'_xor_zm (m : BitVec 32) {k n : Nat} (hk : 9 < k) :
    (m ^^^ 0x200#32).extractLsb' k n = m.extractLsb' k n := by
  refine BitVec.eq_of_getLsbD_eq fun j hj => ?_
  rw [BitVec.getLsbD_extractLsb', BitVec.getLsbD_extractLsb', getLsbD_xor_zm m (by omega)]

/-- No status flag stands at bit 9. -/
theorem xor_zm_or_flagBits (m : BitVec 32) (f : Flags) :
    m ^^^ 0x200#32 ||| (flagBits f).setWidth 32 = (m ||| (flagBits f).setWidth 32) ^^^ 0x200#32 := by
  refine BitVec.eq_of_getLsbD_eq fun k _ => ?_
  by_cases hk : k = 9
  · subst hk
    simp [-BitVec.getLsbD_eq_getElem, flagBits]
  · rw [getLsbD_xor_zm _ hk, BitVec.getLsbD_or, BitVec.getLsbD_or, getLsbD_xor_zm _ hk]

/-- Settles O59: bit 9 of MXCSR is outside the controls, the rounding mode, the reserved bits and the flags. -/
theorem zeroDivideMaskIgnored : Obligations.ZeroDivideMaskIgnored := by
  intro i s
  refine exec_map (h := fun t => { t with mxcsr := t.mxcsr ^^^ 0x200#32 })
    { admission := ?admission, rm := ?rm, ctl := fun sae => ?ctl }
    { orFlags := fun f => ?flags, deliver := fun f q a => ?deliver }
  case admission => simp only [admission, extractLsb'_xor_zm s.mxcsr (show 9 < 16 by decide)]; rfl
  case rm => simp only [State.rm, extractLsb'_xor_zm s.mxcsr (show 9 < 13 by decide)]
  case ctl => simp only [State.ctl, getLsbD_xor_zm s.mxcsr, ne_eq, Nat.reduceEqDiff, not_false_eq_true]
  case flags => simp only [State.orFlags, xor_zm_or_flagBits]
  case deliver => simp only [State.orFlags, xor_zm_or_flagBits]; rfl

/-- EM stands at bit 2 of CR0 (R34). -/
theorem getLsbD_xor_em (c : BitVec 64) {k : Nat} (hk : k ≠ 2) : (c ^^^ 0x4#64).getLsbD k = c.getLsbD k :=
  getLsbD_xor_twoPow (b := 2) c hk

/-- Settles O60: a form takes CR0.PE, TS and AM, at bits 0, 3 and 18. -/
theorem emulationBitIgnored : Obligations.EmulationBitIgnored := by
  intro i s
  have hpe := getLsbD_xor_em s.cr0 (k := 0) (by decide)
  have hts := getLsbD_xor_em s.cr0 (k := 3) (by decide)
  have ham := getLsbD_xor_em s.cr0 (k := 18) (by decide)
  refine exec_map (h := fun t => { t with cr0 := t.cr0 ^^^ 0x4#64 })
    { udVex := ?udVex, udEvex := ?udEvex, ts := hts, access := fun _ _ => { aligned := ?aligned } } {}
  case udVex => simp only [udVex, State.noVexMode, State.cr0PE, hpe]; rfl
  case udEvex => simp only [udEvex, State.noVexMode, State.cr0PE, hpe]; rfl
  case aligned => simp only [State.alignmentChecked, State.cr0AM, ham]; rfl

end Sys2Proof.Machine

/-! The family 20_memory.md: the stops of the 8-byte data read in the order of R168, how a form passes them on, and the
value of a read that is answered. -/

namespace Sys2Proof.Machine

open Sys2Proof

/-! ## The 8 bytes of a quadword -/

/-- The bytes of a quadword in ascending order, cut at the byte `j` (R42). -/
theorem quadAddrs_cut (a : Addr) {j : Nat} (hj : j < 8) :
    ∃ above, quadAddrs a = (List.range j).map (fun k => a + BitVec.ofNat 64 k) ++ (a + BitVec.ofNat 64 j) :: above := by
  have hall : quadAddrs a = (List.range 8).map fun k => a + BitVec.ofNat 64 k := by
    simp [quadAddrs, List.range_succ]
  obtain ⟨n, hn⟩ : ∃ n, 8 = j + (n + 1) := ⟨7 - j, by omega⟩
  rw [hall, hn, List.range_add, List.map_append, List.range_succ_eq_map]
  exact ⟨_, rfl⟩

theorem mem_quadAddrs (a : Addr) {j : Nat} (hj : j < 8) : a + BitVec.ofNat 64 j ∈ quadAddrs a := by
  obtain ⟨above, h⟩ := quadAddrs_cut a hj
  rw [h]
  exact List.mem_append_right _ List.mem_cons_self

/-- A search through the bytes of a quadword ends at the lowest byte that has what is looked for. -/
theorem findSome?_quadAddrs {α : Type} {f : Addr → Option α} {a : Addr} {j : Nat} {x : α} (hj : j < 8)
    (hbelow : ∀ k, k < j → f (a + BitVec.ofNat 64 k) = none) (hat : f (a + BitVec.ofNat 64 j) = some x) :
    (quadAddrs a).findSome? f = some x := by
  obtain ⟨above, h⟩ := quadAddrs_cut a hj
  refine List.findSome?_eq_some_iff.2 ⟨_, _, above, h, hat, ?_⟩
  simpa using hbelow

theorem find?_quadAddrs {p : Addr → Bool} {a : Addr} {j : Nat} (hj : j < 8)
    (hbelow : ∀ k, k < j → p (a + BitVec.ofNat 64 k) = false) (hat : p (a + BitVec.ofNat 64 j) = true) :
    (quadAddrs a).find? p = some (a + BitVec.ofNat 64 j) := by
  obtain ⟨above, h⟩ := quadAddrs_cut a hj
  refine List.find?_eq_some_iff_append.2 ⟨hat, _, above, h, ?_⟩
  simpa using hbelow

/-! ## The checks of the data read, each against its rule -/

section Checks

variable {s : State} {a : Addr}

/-- R50. -/
theorem any_not_canonical_eq_false :
    ((quadAddrs a).any fun x => !canonical s.cfg.va x) = false ↔ QuadCanonical s a := by
  simp only [List.any_eq_false, Bool.not_eq_true', Bool.not_eq_false, canonical_eq_true, QuadCanonical]

/-- R49. -/
theorem findSome?_pageFault_eq_none {fetch : Bool} :
    (quadAddrs a).findSome? (s.pageFault fetch) = none ↔ QuadTranslates s a := by
  simp only [List.findSome?_eq_none_iff, pageFault_eq_none, QuadTranslates]

/-- R45. -/
theorem alignmentChecked_eq_true :
    s.alignmentChecked = true ↔ s.cr0AM = true ∧ s.rflagsAC = true ∧ s.cpl = 3#2 := by
  simp only [State.alignmentChecked, Bool.and_eq_true, beq_iff_eq, and_assoc]

theorem misaligned_eq_false :
    (s.alignmentChecked && a.toNat % 8 != 0) = false ↔
      ((s.cr0AM = true ∧ s.rflagsAC = true ∧ s.cpl = 3#2) → a.toNat % 8 = 0) := by
  rw [← alignmentChecked_eq_true, Bool.and_eq_false_imp, bne_eq_false_iff_eq]

/-- R47. -/
theorem any_isDevice_eq_false :
    (quadAddrs a).any s.isDevice = false ↔ ∀ x ∈ quadAddrs a, ∀ r ∈ s.devices, ¬(r.first ≤ x ∧ x ≤ r.last) := by
  simp only [List.any_eq_false, Bool.not_eq_true, isDevice_eq_false]

/-- The launch memory holds no byte there, on which the model itself stops a read (log 11). -/
theorem isAbsent_eq_true : s.isAbsent a = true ↔ memByte s.mem a.toNat = none := by
  rw [State.isAbsent, Option.isNone_iff_eq_none]

theorem isAbsent_eq_false : s.isAbsent a = false ↔ memByte s.mem a.toNat ≠ none := by
  rw [← Bool.not_eq_true, isAbsent_eq_true]

end Checks

/-! ## The stops of the data read, in the order of 60_exceptions.md R168 -/

section Stops

variable {s : State} {ss : Bool} {a : Addr}

theorem readQuad_of_not_canonical (h : ¬ QuadCanonical s a) :
    readQuad s ss a = .error (.exc (if ss then .ss else .gp)) := by
  rw [← any_not_canonical_eq_false, Bool.not_eq_false] at h
  simp only [readQuad, h, if_true]

theorem readQuad_of_pageFault {j : Nat} {c : PfCause} (hcan : QuadCanonical s a) (hj : j < 8)
    (hbelow : ∀ k, k < j → translate s.xlat (a + BitVec.ofNat 64 k) s.cpl = none)
    (hat : translate s.xlat (a + BitVec.ofNat 64 j) s.cpl = some c) :
    readQuad s ss a = .error (.exc (.pf (pfErrorCode c s.cpl false) (a + BitVec.ofNat 64 j))) := by
  have hfirst : (quadAddrs a).findSome? (s.pageFault false) =
      some (.pf (pfErrorCode c s.cpl false) (a + BitVec.ofNat 64 j)) :=
    findSome?_quadAddrs hj (fun k hk => pageFault_eq_none.2 (hbelow k hk))
      (by simp only [State.pageFault, hat, Option.map_some])
  simp [readQuad, any_not_canonical_eq_false.2 hcan, hfirst]

/-- Past the checks of R50 and R49 the read has R45's left, R47's, and the model's own (log 11). -/
theorem readQuad_of_translates (hcan : QuadCanonical s a) (htr : QuadTranslates s a) :
    readQuad s ss a =
      if s.alignmentChecked && a.toNat % 8 != 0 then .error (.exc .ac)
      else if (quadAddrs a).any s.isDevice then .error (.refuse .deviceMemory)
      else ((quadAddrs a).find? s.isAbsent).elim (.ok (quadValue s.mem a)) fun x => .error (.absent x) := by
  simp only [readQuad, any_not_canonical_eq_false.2 hcan, findSome?_pageFault_eq_none.2 htr]
  cases (quadAddrs a).find? s.isAbsent <;> rfl

theorem readQuad_of_misaligned (hcan : QuadCanonical s a) (htr : QuadTranslates s a)
    (hchk : s.alignmentChecked = true) (hmis : a.toNat % 8 ≠ 0) : readQuad s ss a = .error (.exc .ac) := by
  rw [readQuad_of_translates hcan htr, if_pos (by rw [hchk, Bool.true_and, bne_iff_ne]; exact hmis)]

theorem readQuad_of_device (hcan : QuadCanonical s a) (htr : QuadTranslates s a)
    (hal : (s.cr0AM = true ∧ s.rflagsAC = true ∧ s.cpl = 3#2) → a.toNat % 8 = 0)
    (hdev : ∃ x ∈ quadAddrs a, ∃ r ∈ s.devices, r.first ≤ x ∧ x ≤ r.last) :
    readQuad s ss a = .error (.refuse .deviceMemory) := by
  have hany : (quadAddrs a).any s.isDevice = true := by
    rw [← Bool.not_eq_false, any_isDevice_eq_false]
    obtain ⟨x, hx, r, hr, hin⟩ := hdev
    exact fun hno => hno x hx r hr hin
  simp [readQuad_of_translates hcan htr, misaligned_eq_false.2 hal, hany]

theorem readQuad_of_absent {j : Nat} (hcan : QuadCanonical s a) (htr : QuadTranslates s a)
    (hal : (s.cr0AM = true ∧ s.rflagsAC = true ∧ s.cpl = 3#2) → a.toNat % 8 = 0)
    (hord : ∀ x ∈ quadAddrs a, ∀ r ∈ s.devices, ¬(r.first ≤ x ∧ x ≤ r.last)) (hj : j < 8)
    (hbelow : ∀ k, k < j → memByte s.mem (a + BitVec.ofNat 64 k).toNat ≠ none)
    (hat : memByte s.mem (a + BitVec.ofNat 64 j).toNat = none) :
    readQuad s ss a = .error (.absent (a + BitVec.ofNat 64 j)) := by
  have hfirst : (quadAddrs a).find? s.isAbsent = some (a + BitVec.ofNat 64 j) :=
    find?_quadAddrs hj (fun k hk => isAbsent_eq_false.2 (hbelow k hk)) (isAbsent_eq_true.2 hat)
  simp [readQuad_of_translates hcan htr, misaligned_eq_false.2 hal, any_isDevice_eq_false.2 hord, hfirst]

end Stops

/-! ## A form ends as its read stops -/

section Forms

variable {i : Instr} {s : State} {m : MemOp}

theorem prefixesOf_of_vexOps {o : VexOps} (h : vexOps? i = some o) : prefixesOf i = o.pre := by
  cases i <;> cases h <;> rfl

theorem prefixesOf_of_evexOps {o : EvexOps} (h : evexOps? i = some o) : prefixesOf i = o.pre := by
  cases i <;> cases h <;> rfl

theorem memAddr_of_vexOps {o : VexOps} (h : vexOps? i = some o) : memAddr i s m = vexAddr s o m := by
  cases i <;> cases h <;> rfl

theorem memAddr_of_evexOps {o : EvexOps} (h : evexOps? i = some o) : memAddr i s m = evexAddr s o m := by
  cases i <;> cases h <;> rfl

theorem vexSrc3_of_mem {o : VexOps} (ho : vexOps? i = some o) (hm : src3Of i = .mem m) :
    vexSrc3 s o = readQuad s (usesSS (prefixesOf i) m) (memAddr i s m) := by
  rw [src3Of_of_vexOps ho] at hm
  rw [vexSrc3, hm, prefixesOf_of_vexOps ho, memAddr_of_vexOps ho, vexAddr]

theorem evexSrc3_of_mem {o : EvexOps} (ho : evexOps? i = some o) (hm : src3Of i = .mem m) :
    evexSrc3 s o = readQuad s (usesSS (prefixesOf i) m) (memAddr i s m) := by
  rw [src3Of_of_evexOps ho] at hm
  rw [evexSrc3, hm, prefixesOf_of_evexOps ho, memAddr_of_evexOps ho, evexAddr]

theorem maskBit_eq_true {o : EvexOps} : maskBit s o = true ↔ MaskOn s o := by
  rw [maskBit, Bool.or_eq_true, beq_iff_eq, MaskOn]

/-- With the mask bit 1, or where the implementation reads in spite of a mask bit 0, the read is made (42 R147). -/
theorem readSuppressed_eq_false {o : EvexOps} (h : MaskOn s o ∨ s.cfg.maskSuppressesMemFault = false) :
    readSuppressed s o = false := by
  obtain hon | hpar := h
  · simp [readSuppressed, maskBit_eq_true.2 hon]
  · simp [readSuppressed, hpar]

/-- In a ready state a form that makes its read ends as the read stops, in both families (41 R133, 42 R148). -/
theorem exec_of_readQuad_error {st : Stop} (hready : FormReady i s) (hreads : ReadsMemory i s m)
    (hstop : readQuad s (usesSS (prefixesOf i) m) (memAddr i s m) = .error st) : exec i s = stop st s := by
  obtain ⟨hmem, hmade⟩ := hreads
  obtain ⟨o, ho⟩ | ⟨o, ho⟩ := vexOps_or_evexOps i
  · have hv := hready.1 o ho
    rw [← vexSrc3_of_mem ho hmem] at hstop
    simp [exec_of_vexOps ho, execVex, admission_eq_none.2 hv.toAdmitted, udVex_eq_false hv, hv.ts, hstop]
  · obtain ⟨hv, hres⟩ := hready.2 o ho
    rw [← evexSrc3_of_mem ho hmem] at hstop
    simp [exec_of_evexOps ho, execEvex, admission_eq_none.2 hv.toAdmitted, hres, udEvex_eq_false hv, hv.ts,
      readSuppressed_eq_false (hmade o ho), hstop]

end Forms

/-! ## The stops of a form's read -/

/-- Settles O47: the check of R50 is the read's first. -/
theorem nonCanonicalOperand : Obligations.NonCanonicalOperand := by
  intro i s m hready hreads hcan
  rw [exec_of_readQuad_error hready hreads (readQuad_of_not_canonical hcan)]
  cases usesSS (prefixesOf i) m <;> rfl

/-- The error code of a page fault of a data read, bit by bit (60_exceptions.md R162). -/
theorem pfErrorCode_data (c : PfCause) (cpl : BitVec 2) :
    (pfErrorCode c cpl false).getLsbD 0 = c.protection ∧ (pfErrorCode c cpl false).getLsbD 1 = false ∧
      ((pfErrorCode c cpl false).getLsbD 2 = true ↔ cpl = 3#2) ∧
      (pfErrorCode c cpl false).getLsbD 3 = c.reserved ∧ (pfErrorCode c cpl false).getLsbD 4 = false ∧
      (pfErrorCode c cpl false).getLsbD 5 = c.key := by
  obtain ⟨protection, reserved, key⟩ := c
  revert protection reserved key cpl
  decide

/-- Settles O48: the search for a fault goes up from the lowest byte, and raising it sets CR2. -/
theorem operandPageFault : Obligations.OperandPageFault := by
  intro i s m j c hready hreads hcan hj hbelow hat
  refine ⟨pfErrorCode c s.cpl false, ?_, pfErrorCode_data c s.cpl⟩
  rw [exec_of_readQuad_error hready hreads (readQuad_of_pageFault hcan hj hbelow hat)]
  rfl

/-- Settles O49: CR0.AM and RFLAGS.AC are at bit 18 of their registers. -/
theorem alignmentCheck : Obligations.AlignmentCheck := by
  intro i s m hready hreads hcan htr ham hac hcpl hmis
  have hchk : s.alignmentChecked = true := alignmentChecked_eq_true.2 ⟨ham, hac, hcpl⟩
  rw [exec_of_readQuad_error hready hreads (readQuad_of_misaligned hcan htr hchk hmis)]
  rfl

/-- Settles O50: after R168's checks come the device windows, and then the bytes from the lowest up. -/
theorem unbackedReadsStop : Obligations.UnbackedReadsStop := by
  intro i s m hready hreads hcan htr hal
  constructor
  · intro hdev
    exact exec_of_readQuad_error hready hreads (readQuad_of_device hcan htr hal hdev)
  · intro j hj hord hbelow hat
    exact exec_of_readQuad_error hready hreads (readQuad_of_absent hcan htr hal hord hj hbelow hat)

/-! ## The value of a read -/

/-! A quadword is peeled from its lowest byte up. -/

theorem extractLsb'_byte (b : Byte) : b.extractLsb' (8 * 0) 8 = b :=
  BitVec.extractLsb'_eq_self

theorem extractLsb'_append_byte_zero {w : Nat} (above : BitVec w) (b : Byte) :
    (above ++ b).extractLsb' (8 * 0) 8 = b :=
  BitVec.extractLsb'_append_eq_right

theorem extractLsb'_append_byte_succ {w : Nat} (above : BitVec w) (b : Byte) (j : Nat) :
    (above ++ b).extractLsb' (8 * (j + 1)) 8 = above.extractLsb' (8 * j) 8 :=
  BitVec.extractLsb'_append_eq_of_le (by omega)

/-- The byte at `a + j` stands in bits 8j+7:8j of the quadword at `a` (R41, R42). -/
theorem extractLsb'_quadValue (mem : List Host.Cell) (a : Addr) {j : Nat} (hj : j < 8) :
    (quadValue mem a).extractLsb' (8 * j) 8 = (memByte mem (a + BitVec.ofNat 64 j).toNat).getD 0#8 := by
  unfold quadValue
  interval_cases j <;>
    simp only [extractLsb'_append_byte_succ, extractLsb'_append_byte_zero, extractLsb'_byte, BitVec.add_zero]

/-- Settles O51: a read that is answered found each of its bytes. -/
theorem readIsLittleEndian : Obligations.ReadIsLittleEndian := by
  intro s ss a q h j hj
  obtain ⟨hread, rfl⟩ := readQuad_eq_ok.1 h
  obtain ⟨b, hb⟩ := Option.ne_none_iff_exists'.1 (hread.present _ (mem_quadAddrs a hj))
  rw [extractLsb'_quadValue s.mem a hj, hb, Option.getD_some]

end Sys2Proof.Machine

/-! The family 30_encoding.md: the decoder and the encoder are inverse to each other, what the decoder refuses, and the
addresses of memory operands. -/

namespace Sys2Proof

/-! ## Fields of a word -/

theorem exists_append (w v : Nat) (x : BitVec (w + v)) : ∃ (hi : BitVec w) (lo : BitVec v), x = hi ++ lo :=
  ⟨_, _, BitVec.extractLsb'_append_extractLsb'.symm⟩

theorem exists_ofBool_not (x : BitVec 1) : ∃ b, x = BitVec.ofBool (!b) := by
  decide +revert

theorem ofBool_append_extractLsb' {w : Nat} (x : BitVec w) (k : Nat) :
    BitVec.ofBool (x.getLsbD k) ++ x.extractLsb' 0 k = x.extractLsb' 0 (1 + k) := by
  have hbit : BitVec.ofBool (x.getLsbD k) = x.extractLsb' k 1 := by
    ext j hj
    obtain rfl : j = 0 := by omega
    simp
  rw [hbit, BitVec.extractLsb'_append_extractLsb'_eq_extractLsb' (Nat.zero_add k).symm]

theorem getLsbD_ofBool_append {v : Nat} (b : Bool) (x : BitVec v) : (BitVec.ofBool b ++ x).getLsbD v = b := by
  simp only [BitVec.getLsbD_append, Nat.lt_irrefl, if_false, Nat.sub_self, BitVec.getLsbD_ofBool, decide_true,
    Bool.true_and]

/-- The X or B bit above the three bits of ModRM or SIB (30_encoding.md R67, R68). -/
theorem ofBool_append_low3 (n : BitVec 4) : BitVec.ofBool (n.getLsbD 3) ++ n.extractLsb' 0 3 = n :=
  (ofBool_append_extractLsb' n 3).trans BitVec.extractLsb'_eq_self

/-- V' above vvvv (R71). -/
theorem ofBool_append_low4 (n : BitVec 5) : BitVec.ofBool (n.getLsbD 4) ++ n.extractLsb' 0 4 = n :=
  (ofBool_append_extractLsb' n 4).trans BitVec.extractLsb'_eq_self

/-- R' and R above ModRM.reg (R71). -/
theorem ofBool_append_bit3_append_low3 (n : BitVec 5) :
    BitVec.ofBool (n.getLsbD 4) ++ BitVec.ofBool (n.getLsbD 3) ++ n.extractLsb' 0 3 = n :=
  BitVec.append_assoc.trans ((congrArg (BitVec.ofBool (n.getLsbD 4) ++ ·) (ofBool_append_extractLsb' n 3)).trans
    (ofBool_append_low4 n))

theorem low3_ofBool_append (b : Bool) (x : BitVec 3) : (BitVec.ofBool b ++ x).extractLsb' 0 3 = x :=
  BitVec.extractLsb'_append_eq_right

theorem low4_ofBool_append (b : Bool) (x : BitVec 4) : (BitVec.ofBool b ++ x).extractLsb' 0 4 = x :=
  BitVec.extractLsb'_append_eq_right

theorem bit3_ofBool_append (b : Bool) (x : BitVec 3) : (BitVec.ofBool b ++ x).getLsbD 3 = b :=
  getLsbD_ofBool_append b x

theorem bit4_ofBool_append (b : Bool) (x : BitVec 4) : (BitVec.ofBool b ++ x).getLsbD 4 = b :=
  getLsbD_ofBool_append b x

/-- The number of DEST in an EVEX form (R71). -/
theorem dest_fields (r' r : Bool) (x : BitVec 3) :
    (BitVec.ofBool r' ++ BitVec.ofBool r ++ x).getLsbD 4 = r' ∧
    (BitVec.ofBool r' ++ BitVec.ofBool r ++ x).getLsbD 3 = r ∧
    (BitVec.ofBool r' ++ BitVec.ofBool r ++ x).extractLsb' 0 3 = x := by
  refine ⟨?_, ?_, BitVec.extractLsb'_append_eq_right⟩ <;> simp only [BitVec.getLsbD_append] <;> simp

/-! ## The bytes of the formats, put together from their fields -/

/-- ModRM (mod, reg, rm) and SIB (scale, index, base) (R67, R68). -/
def modrmByte (mod : BitVec 2) (reg rm : BitVec 3) : Byte := mod ++ reg ++ rm

/-- The byte after C4H: R, X and B inverted, and the map (R62). -/
def vexByte1 (r x b : Bool) (map : BitVec 5) : Byte :=
  BitVec.ofBool (!r) ++ BitVec.ofBool (!x) ++ BitVec.ofBool (!b) ++ map

/-- The last byte before the opcode of a VEX form: W, vvvv inverted, L and pp (R62). -/
def vexByte2 (w : Bool) (v : BitVec 4) (l : Bool) (pp : BitVec 2) : Byte :=
  BitVec.ofBool w ++ ~~~ v ++ BitVec.ofBool l ++ pp

/-- P0: R, X, B and R' inverted, and the map below two reserved bits (R65). -/
def evexByte0 (r x b r' : Bool) (map : BitVec 4) : Byte :=
  BitVec.ofBool (!r) ++ BitVec.ofBool (!x) ++ BitVec.ofBool (!b) ++ BitVec.ofBool (!r') ++ map

/-- P1: W, vvvv inverted, the fixed bit and pp (R65). -/
def evexByte1 (w : Bool) (v : BitVec 4) (pp : BitVec 3) : Byte := BitVec.ofBool w ++ ~~~ v ++ pp

/-- P2: z, L'L, b, V' inverted, and aaa (R65). -/
def evexByte2 (z : Bool) (ll : BitVec 2) (b v' : Bool) (aaa : BitVec 3) : Byte :=
  BitVec.ofBool z ++ ll ++ BitVec.ofBool b ++ BitVec.ofBool (!v') ++ aaa

/-! Each byte is so put together, and each field is read back where the decoder reads it. -/

theorem exists_modrmByte (y : Byte) : ∃ mod reg rm, y = modrmByte mod reg rm := by
  obtain ⟨hi, rm, rfl⟩ := exists_append 5 3 y
  obtain ⟨mod, reg, rfl⟩ := exists_append 2 3 hi
  exact ⟨mod, reg, rm, rfl⟩

theorem exists_vexByte1 (y : Byte) : ∃ r x b map, y = vexByte1 r x b map := by
  obtain ⟨hi, map, rfl⟩ := exists_append 3 5 y
  obtain ⟨hi, b, rfl⟩ := exists_append 2 1 hi
  obtain ⟨r, x, rfl⟩ := exists_append 1 1 hi
  obtain ⟨r, rfl⟩ := exists_ofBool_not r
  obtain ⟨x, rfl⟩ := exists_ofBool_not x
  obtain ⟨b, rfl⟩ := exists_ofBool_not b
  exact ⟨r, x, b, map, rfl⟩

theorem exists_vexByte2 (y : Byte) : ∃ w v l pp, y = vexByte2 w v l pp := by
  obtain ⟨hi, pp, rfl⟩ := exists_append 6 2 y
  obtain ⟨hi, l, rfl⟩ := exists_append 5 1 hi
  obtain ⟨w, v, rfl⟩ := exists_append 1 4 hi
  obtain ⟨w, rfl⟩ := exists_ofBool_not w
  obtain ⟨l, rfl⟩ := exists_ofBool_not l
  exact ⟨!w, ~~~ v, !l, pp, by rw [vexByte2, BitVec.not_not]⟩

theorem exists_evexByte0 (y : Byte) : ∃ r x b r' map, y = evexByte0 r x b r' map := by
  obtain ⟨hi, map, rfl⟩ := exists_append 4 4 y
  obtain ⟨hi, r', rfl⟩ := exists_append 3 1 hi
  obtain ⟨hi, b, rfl⟩ := exists_append 2 1 hi
  obtain ⟨r, x, rfl⟩ := exists_append 1 1 hi
  obtain ⟨r, rfl⟩ := exists_ofBool_not r
  obtain ⟨x, rfl⟩ := exists_ofBool_not x
  obtain ⟨b, rfl⟩ := exists_ofBool_not b
  obtain ⟨r', rfl⟩ := exists_ofBool_not r'
  exact ⟨r, x, b, r', map, rfl⟩

theorem exists_evexByte1 (y : Byte) : ∃ w v pp, y = evexByte1 w v pp := by
  obtain ⟨hi, pp, rfl⟩ := exists_append 5 3 y
  obtain ⟨w, v, rfl⟩ := exists_append 1 4 hi
  obtain ⟨w, rfl⟩ := exists_ofBool_not w
  exact ⟨!w, ~~~ v, pp, by rw [evexByte1, BitVec.not_not]⟩

theorem exists_evexByte2 (y : Byte) : ∃ z ll b v' aaa, y = evexByte2 z ll b v' aaa := by
  obtain ⟨hi, aaa, rfl⟩ := exists_append 5 3 y
  obtain ⟨hi, v', rfl⟩ := exists_append 4 1 hi
  obtain ⟨hi, b, rfl⟩ := exists_append 3 1 hi
  obtain ⟨z, ll, rfl⟩ := exists_append 1 2 hi
  obtain ⟨z, rfl⟩ := exists_ofBool_not z
  obtain ⟨b, rfl⟩ := exists_ofBool_not b
  obtain ⟨v', rfl⟩ := exists_ofBool_not v'
  exact ⟨!z, ll, !b, v', aaa, rfl⟩

theorem modrmByte_fields (mod : BitVec 2) (reg rm : BitVec 3) :
    (modrmByte mod reg rm).extractLsb' 6 2 = mod ∧ (modrmByte mod reg rm).extractLsb' 3 3 = reg ∧
    (modrmByte mod reg rm).extractLsb' 0 3 = rm := by
  refine ⟨?_, ?_, BitVec.extractLsb'_append_eq_right⟩ <;>
    rw [modrmByte, BitVec.extractLsb'_append_eq_of_le (by decide)]
  · exact BitVec.extractLsb'_append_eq_left
  · exact BitVec.extractLsb'_append_eq_right

theorem vexByte1_fields (r x b : Bool) (map : BitVec 5) :
    (vexByte1 r x b map).getLsbD 7 = !r ∧ (vexByte1 r x b map).getLsbD 6 = !x ∧
    (vexByte1 r x b map).getLsbD 5 = !b ∧ (vexByte1 r x b map).extractLsb' 0 5 = map := by
  refine ⟨?_, ?_, ?_, BitVec.extractLsb'_append_eq_right⟩ <;> simp only [vexByte1, BitVec.getLsbD_append] <;> simp

theorem vexByte2_fields (w : Bool) (v : BitVec 4) (l : Bool) (pp : BitVec 2) :
    (vexByte2 w v l pp).getLsbD 7 = w ∧ ~~~ (vexByte2 w v l pp).extractLsb' 3 4 = v ∧
    (vexByte2 w v l pp).getLsbD 2 = l ∧ (vexByte2 w v l pp).extractLsb' 0 2 = pp := by
  refine ⟨?_, ?_, ?_, BitVec.extractLsb'_append_eq_right⟩
  · simp only [vexByte2, BitVec.getLsbD_append]; simp
  · rw [BitVec.not_eq_comm, vexByte2, BitVec.extractLsb'_append_eq_of_le (by decide),
      BitVec.extractLsb'_append_eq_of_le (by decide)]
    exact BitVec.extractLsb'_append_eq_right
  · simp only [vexByte2, BitVec.getLsbD_append]; simp

theorem evexByte0_fields (r x b r' : Bool) (map : BitVec 4) :
    (evexByte0 r x b r' map).getLsbD 7 = !r ∧ (evexByte0 r x b r' map).getLsbD 6 = !x ∧
    (evexByte0 r x b r' map).getLsbD 5 = !b ∧ (evexByte0 r x b r' map).getLsbD 4 = !r' ∧
    (evexByte0 r x b r' map).extractLsb' 0 4 = map := by
  refine ⟨?_, ?_, ?_, ?_, BitVec.extractLsb'_append_eq_right⟩ <;>
    simp only [evexByte0, BitVec.getLsbD_append] <;> simp

theorem evexByte1_fields (w : Bool) (v : BitVec 4) (pp : BitVec 3) :
    (evexByte1 w v pp).getLsbD 7 = w ∧ ~~~ (evexByte1 w v pp).extractLsb' 3 4 = v ∧
    (evexByte1 w v pp).extractLsb' 0 3 = pp := by
  refine ⟨?_, ?_, BitVec.extractLsb'_append_eq_right⟩
  · simp only [evexByte1, BitVec.getLsbD_append]; simp
  · rw [BitVec.not_eq_comm, evexByte1, BitVec.extractLsb'_append_eq_of_le (by decide)]
    exact BitVec.extractLsb'_append_eq_right

theorem evexByte2_fields (z : Bool) (ll : BitVec 2) (b v' : Bool) (aaa : BitVec 3) :
    (evexByte2 z ll b v' aaa).getLsbD 7 = z ∧ (evexByte2 z ll b v' aaa).extractLsb' 5 2 = ll ∧
    (evexByte2 z ll b v' aaa).getLsbD 4 = b ∧ (evexByte2 z ll b v' aaa).getLsbD 3 = !v' ∧
    (evexByte2 z ll b v' aaa).extractLsb' 0 3 = aaa := by
  refine ⟨?_, ?_, ?_, ?_, BitVec.extractLsb'_append_eq_right⟩
  · simp only [evexByte2, BitVec.getLsbD_append]; simp
  · rw [evexByte2, BitVec.extractLsb'_append_eq_of_le (by decide), BitVec.extractLsb'_append_eq_of_le (by decide),
      BitVec.extractLsb'_append_eq_of_le (by decide)]
    exact BitVec.extractLsb'_append_eq_right
  · simp only [evexByte2, BitVec.getLsbD_append]; simp
  · simp only [evexByte2, BitVec.getLsbD_append]; simp

/-! ## The displacement (R69) -/

theorem take32_bytes32 (d : BitVec 32) (rest : List Byte) : take32 (bytes32 d ++ rest) = some (d, rest) := by
  have hjoin : d.extractLsb' 24 8 ++ d.extractLsb' 16 8 ++ d.extractLsb' 8 8 ++ d.extractLsb' 0 8 = d := by
    rw [BitVec.extractLsb'_append_extractLsb'_eq_extractLsb' (start₁ := 16) (len₁ := 8) rfl,
      BitVec.extractLsb'_append_extractLsb'_eq_extractLsb' (start₁ := 8) (len₁ := 8) rfl,
      BitVec.extractLsb'_append_extractLsb'_eq_extractLsb' (start₁ := 0) (len₁ := 8) rfl, BitVec.extractLsb'_eq_self]
  simp only [bytes32, List.cons_append, List.nil_append, take32, hjoin]

theorem take32_eq_some {bs rest : List Byte} {d : BitVec 32} (h : take32 bs = some (d, rest)) :
    bs = bytes32 d ++ rest := by
  match bs with
  | b0 :: b1 :: b2 :: b3 :: bs =>
    obtain ⟨rfl, rfl⟩ : b3 ++ b2 ++ b1 ++ b0 = d ∧ bs = rest := by simpa [take32] using h
    have h0 : (b3 ++ b2 ++ b1 ++ b0).extractLsb' 0 8 = b0 := BitVec.extractLsb'_append_eq_right
    have h1 : (b3 ++ b2 ++ b1 ++ b0).extractLsb' 8 8 = b1 :=
      (BitVec.extractLsb'_append_eq_of_le (by decide)).trans BitVec.extractLsb'_append_eq_right
    have h2 : (b3 ++ b2 ++ b1 ++ b0).extractLsb' 16 8 = b2 :=
      (BitVec.extractLsb'_append_eq_of_le (by decide)).trans
        ((BitVec.extractLsb'_append_eq_of_le (by decide)).trans BitVec.extractLsb'_append_eq_right)
    have h3 : (b3 ++ b2 ++ b1 ++ b0).extractLsb' 24 8 = b3 :=
      (BitVec.extractLsb'_append_eq_of_le (by decide)).trans
        ((BitVec.extractLsb'_append_eq_of_le (by decide)).trans BitVec.extractLsb'_append_eq_left)
    simp only [bytes32, h0, h1, h2, h3, List.cons_append, List.nil_append]

theorem takeDisp_bytes (d : Disp) (rest : List Byte) : takeDisp d.mod (d.bytes ++ rest) = some (d, rest) := by
  cases d with
  | none => rfl
  | d8 d => rfl
  | d32 d => simp [takeDisp, Disp.mod, Disp.bytes, take32_bytes32]

theorem takeDisp_eq_some {mod : BitVec 2} {bs rest : List Byte} {d : Disp} (hmod : mod ≠ 3#2)
    (h : takeDisp mod bs = some (d, rest)) : d.mod = mod ∧ bs = d.bytes ++ rest := by
  unfold takeDisp at h
  split at h
  · obtain ⟨rfl, rfl⟩ : Disp.none = d ∧ bs = rest := by simpa using h
    exact ⟨Eq.symm ‹_›, rfl⟩
  split at h
  · match bs with
    | b :: bs =>
      obtain ⟨rfl, rfl⟩ : Disp.d8 b = d ∧ bs = rest := by simpa using h
      exact ⟨Eq.symm ‹_›, rfl⟩
  · obtain ⟨⟨e, rest'⟩, he, hd⟩ := Option.map_eq_some_iff.1 h
    obtain ⟨rfl, rfl⟩ : Disp.d32 e = d ∧ rest' = rest := by simpa using hd
    have hmod2 : ∀ m : BitVec 2, m ≠ 0#2 → m ≠ 1#2 → m ≠ 3#2 → 2#2 = m := by decide
    exact ⟨hmod2 mod ‹_› ‹_› hmod, take32_eq_some he⟩

theorem disp_mod_ne_three (d : Disp) : d.mod ≠ 3#2 := by
  cases d <;> simp [Disp.mod]

theorem disp_mod_eq_zero {d : Disp} : d.mod = 0#2 ↔ d = .none := by
  cases d <;> simp [Disp.mod]

/-! ## The third operand (R67, R68, R72) -/

theorem sibByte_eq (sc : BitVec 2) (i b : BitVec 4) :
    sc ++ i.extractLsb' 0 3 ++ b.extractLsb' 0 3 = modrmByte sc (i.extractLsb' 0 3) (b.extractLsb' 0 3) := rfl

theorem src3_mod_ne_three (m : MemOp) : (Src3.mem m).mod ≠ 3#2 := by
  cases m with
  | rip x b d => simp [Src3.mod]
  | base x r d => exact disp_mod_ne_three d
  | sib sc i b d => exact disp_mod_ne_three d
  | sibNoBase b sc i d => simp [Src3.mod]

/-- A memory operand is read back from its fields and the bytes after ModRM. -/
theorem decodeMem_tail {m : MemOp} (h : m.wf = true) (rest : List Byte) :
    decodeMem (Src3.mem m).xBit (Src3.mem m).bBit (Src3.mem m).mod (Src3.mem m).rm ((Src3.mem m).tail ++ rest) =
      some (m, rest) := by
  cases m with
  | rip x b d => simp [decodeMem, Src3.mod, Src3.rm, Src3.xBit, Src3.bBit, Src3.tail, take32_bytes32]
  | base x r d =>
    obtain ⟨h4, h5⟩ : r.extractLsb' 0 3 ≠ 4#3 ∧ (r.extractLsb' 0 3 ≠ 5#3 ∨ d ≠ .none) := by simpa [MemOp.wf] using h
    have hrip : ¬(d.mod = 0#2 ∧ r.extractLsb' 0 3 = 5#3) := by
      rw [disp_mod_eq_zero]
      tauto
    simp only [decodeMem, Src3.mod, Src3.rm, Src3.xBit, Src3.bBit, Src3.tail, if_neg h4, if_neg hrip, takeDisp_bytes,
      ofBool_append_low3, Option.map_some]
  | sib sc i b d =>
    have h5 : b.extractLsb' 0 3 ≠ 5#3 ∨ d ≠ .none := by simpa [MemOp.wf] using h
    have hno : ¬(d.mod = 0#2 ∧ b.extractLsb' 0 3 = 5#3) := by
      rw [disp_mod_eq_zero]
      tauto
    obtain ⟨hsc, hi, hb⟩ := modrmByte_fields sc (i.extractLsb' 0 3) (b.extractLsb' 0 3)
    simp only [decodeMem, Src3.mod, Src3.rm, Src3.xBit, Src3.bBit, Src3.tail, List.cons_append, if_true, sibByte_eq,
      hsc, hi, hb, if_neg hno, takeDisp_bytes, ofBool_append_low3, Option.map_some]
  | sibNoBase b sc i d =>
    obtain ⟨hsc, hi, hb⟩ := modrmByte_fields sc (i.extractLsb' 0 3) 5#3
    have hsib : sc ++ i.extractLsb' 0 3 ++ 5#3 = modrmByte sc (i.extractLsb' 0 3) 5#3 := rfl
    simp only [decodeMem, Src3.mod, Src3.rm, Src3.xBit, Src3.bBit, Src3.tail, List.cons_append, if_true, hsib,
      hsc, hi, hb, and_self, take32_bytes32, ofBool_append_low3, Option.map_some]

/-- `r` is the third operand that the X and B bits, mod and rm express (R67, R72). -/
structure Src3.ExpressedBy (r : Src3) (x b : Bool) (mod : BitVec 2) (rm : BitVec 3) : Prop where
  wf : r.wf = true
  xBit : r.xBit = x
  bBit : r.bBit = b
  mod : r.mod = mod
  rm : r.rm = rm

/-- A memory operand that is read takes its fields and the bytes after ModRM whole. -/
theorem decodeMem_eq_some {x b : Bool} {mod : BitVec 2} {rm : BitVec 3} {bs rest : List Byte} {m : MemOp}
    (hmod : mod ≠ 3#2) (h : decodeMem x b mod rm bs = some (m, rest)) :
    (Src3.mem m).ExpressedBy x b mod rm ∧ bs = (Src3.mem m).tail ++ rest := by
  unfold decodeMem at h
  split at h
  · next hrm =>
    match bs with
    | sb :: bs =>
      obtain ⟨sc, i, base, rfl⟩ := exists_modrmByte sb
      obtain ⟨hsc, hi, hb⟩ := modrmByte_fields sc i base
      simp only [hsc, hi, hb] at h
      split at h
      · next hno =>
        obtain ⟨⟨d, rest'⟩, hd, hm⟩ := Option.map_eq_some_iff.1 h
        obtain ⟨rfl, rfl⟩ : MemOp.sibNoBase b sc (BitVec.ofBool x ++ i) d = m ∧ rest' = rest := by simpa using hm
        refine ⟨⟨rfl, bit3_ofBool_append x i, rfl, hno.1.symm, hrm.symm⟩, ?_⟩
        rw [take32_eq_some hd, hno.2, Src3.tail, low3_ofBool_append, modrmByte, List.cons_append]
      · next hno =>
        obtain ⟨⟨d, rest'⟩, hd, hm⟩ := Option.map_eq_some_iff.1 h
        obtain ⟨rfl, rfl⟩ : MemOp.sib sc (BitVec.ofBool x ++ i) (BitVec.ofBool b ++ base) d = m ∧ rest' = rest := by
          simpa using hm
        obtain ⟨rfl, rfl⟩ := takeDisp_eq_some hmod hd
        refine ⟨⟨?_, bit3_ofBool_append x i, bit3_ofBool_append b base, rfl, hrm.symm⟩, ?_⟩
        · rw [disp_mod_eq_zero] at hno
          simp only [Src3.wf, MemOp.wf, low3_ofBool_append, Bool.or_eq_true, bne_iff_ne]
          tauto
        · rw [Src3.tail, low3_ofBool_append, low3_ofBool_append, modrmByte, List.cons_append]
  next hrm =>
  split at h
  · next hrip =>
    obtain ⟨⟨d, rest'⟩, hd, hm⟩ := Option.map_eq_some_iff.1 h
    obtain ⟨rfl, rfl⟩ : MemOp.rip x b d = m ∧ rest' = rest := by simpa using hm
    exact ⟨⟨rfl, rfl, rfl, hrip.1.symm, hrip.2.symm⟩, take32_eq_some hd⟩
  · next hrip =>
    obtain ⟨⟨d, rest'⟩, hd, hm⟩ := Option.map_eq_some_iff.1 h
    obtain ⟨rfl, rfl⟩ : MemOp.base x (BitVec.ofBool b ++ rm) d = m ∧ rest' = rest := by simpa using hm
    obtain ⟨rfl, rfl⟩ := takeDisp_eq_some hmod hd
    refine ⟨⟨?_, rfl, bit3_ofBool_append b rm, rfl, low3_ofBool_append b rm⟩, rfl⟩
    rw [disp_mod_eq_zero] at hrip
    simp only [Src3.wf, MemOp.wf, low3_ofBool_append, Bool.and_eq_true, Bool.or_eq_true, bne_iff_ne]
    tauto

theorem decodeSrc3_tail {r : Src3} (h : r.wf = true) (reg : BitVec 3) (rest : List Byte) :
    decodeSrc3 r.xBit r.bBit (modrmByte r.mod reg r.rm) (r.tail ++ rest) = some (r, rest) := by
  obtain ⟨hmod, -, hrm⟩ := modrmByte_fields r.mod reg r.rm
  simp only [decodeSrc3, hmod, hrm]
  cases r with
  | reg x n =>
    simp only [Src3.mod, Src3.rm, Src3.xBit, Src3.bBit, Src3.tail, if_true, ofBool_append_low3, List.nil_append]
  | mem m => simp only [if_neg (src3_mod_ne_three m), decodeMem_tail (m := m) h, Option.map_some]

theorem decodeSrc3_eq_some {x b : Bool} {mod : BitVec 2} {reg rm : BitVec 3} {bs rest : List Byte} {r : Src3}
    (h : decodeSrc3 x b (modrmByte mod reg rm) bs = some (r, rest)) :
    r.ExpressedBy x b mod rm ∧ bs = r.tail ++ rest := by
  obtain ⟨hmod, -, hrm⟩ := modrmByte_fields mod reg rm
  simp only [decodeSrc3, hmod, hrm] at h
  split at h
  · next h3 =>
    obtain ⟨rfl, rfl⟩ : Src3.reg x (BitVec.ofBool b ++ rm) = r ∧ bs = rest := by simpa using h
    exact ⟨⟨rfl, rfl, bit3_ofBool_append b rm, h3.symm, low3_ofBool_append b rm⟩, rfl⟩
  · next h3 =>
    obtain ⟨⟨m, rest'⟩, hm, hr⟩ := Option.map_eq_some_iff.1 h
    obtain ⟨rfl, rfl⟩ : Src3.mem m = r ∧ rest' = rest := by simpa using hr
    exact decodeMem_eq_some h3 hm

/-! ## The forms between the legacy prefixes and the end (R62, R65, R89) -/

/-- What stands after C4H in a VEX form. -/
def VexOps.body (op : Byte) (o : VexOps) : List Byte :=
  vexByte1 (o.dest.getLsbD 3) o.src3.xBit o.src3.bBit 2#5 :: vexByte2 true o.src2 o.l 1#2 :: op ::
    modrmByte o.src3.mod (o.dest.extractLsb' 0 3) o.src3.rm :: o.src3.tail

/-- What stands after 62H in an EVEX form. -/
def EvexOps.body (op : Byte) (o : EvexOps) : List Byte :=
  evexByte0 (o.dest.getLsbD 3) o.src3.xBit o.src3.bBit (o.dest.getLsbD 4) 2#4 ::
    evexByte1 true (o.src2.extractLsb' 0 4) 5#3 :: evexByte2 o.z o.ll o.b (o.src2.getLsbD 4) o.aaa :: op ::
    modrmByte o.src3.mod (o.dest.extractLsb' 0 3) o.src3.rm :: o.src3.tail

theorem VexOps.encode_eq (op : Byte) (o : VexOps) : o.encode op = o.pre.bytes ++ 0xC4#8 :: o.body op := rfl

theorem EvexOps.encode_eq (op : Byte) (o : EvexOps) : o.encode op = o.pre.bytes ++ 0x62#8 :: o.body op := rfl

section Vex

variable {op : Byte} {row : VexOps → Instr}

/-- The fields of R64 fit, but a forbidden byte stood before. -/
theorem decodeVex_bad (hrow : vexRow op = some row) (pre : Prefixes) (o : VexOps) (rest : List Byte) :
    decodeVex pre true (o.body op ++ rest) = .ud := by
  obtain ⟨-, -, -, hmap⟩ := vexByte1_fields (o.dest.getLsbD 3) o.src3.xBit o.src3.bBit 2#5
  obtain ⟨hw, -, -, hpp⟩ := vexByte2_fields true o.src2 o.l 1#2
  simp only [VexOps.body, List.cons_append, decodeVex, hmap, hw, hpp, and_self, if_true, hrow]

theorem decodeVex_body (hrow : vexRow op = some row) {o : VexOps} (h : o.wf = true) (rest : List Byte) :
    decodeVex o.pre false (o.body op ++ rest) = .insn (row o) rest := by
  obtain ⟨hr, hx, hb, hmap⟩ := vexByte1_fields (o.dest.getLsbD 3) o.src3.xBit o.src3.bBit 2#5
  obtain ⟨hw, hv, hl, hpp⟩ := vexByte2_fields true o.src2 o.l 1#2
  obtain ⟨-, hreg, -⟩ := modrmByte_fields o.src3.mod (o.dest.extractLsb' 0 3) o.src3.rm
  simp only [VexOps.body, List.cons_append, decodeVex, hr, hx, hb, hmap, hw, hv, hl, hpp, hreg, and_self, if_true, hrow,
    Bool.not_not, decodeSrc3_tail h, ofBool_append_low3, Bool.false_eq_true, if_false]

/-- What is read after C4H as an instruction has no forbidden byte before it and is a well-formed VEX form, whole. -/
theorem decodeVex_eq_insn {pre : Prefixes} {bad : Bool} {bs rest : List Byte} {i : Instr}
    (h : decodeVex pre bad bs = .insn i rest) :
    bad = false ∧ ∃ op row o, vexRow op = some row ∧ o.wf = true ∧ o.pre = pre ∧ i = row o ∧
      bs = o.body op ++ rest := by
  match bs with
  | b1 :: b2 :: op :: bs =>
    obtain ⟨r, x, b, map, rfl⟩ := exists_vexByte1 b1
    obtain ⟨w, v, l, pp, rfl⟩ := exists_vexByte2 b2
    obtain ⟨hr, hx, hb, hmap⟩ := vexByte1_fields r x b map
    obtain ⟨hw, hv, hl, hpp⟩ := vexByte2_fields w v l pp
    simp only [decodeVex, hr, hx, hb, hmap, hw, hv, hl, hpp, Bool.not_not] at h
    split at h
    · next hfields =>
      obtain ⟨rfl, rfl, rfl⟩ := hfields
      split at h
      · cases h
      next row hrow =>
      split at h
      · cases h
      next hbad =>
      match bs with
      | modrm :: bs =>
        obtain ⟨mod, reg, rm, rfl⟩ := exists_modrmByte modrm
        simp only [(modrmByte_fields mod reg rm).2.1] at h
        split at h
        · cases h
        next src3 rest' hsrc3 =>
        obtain ⟨rfl, rfl⟩ : row _ = i ∧ rest' = rest := by simpa using h
        obtain ⟨⟨hwf, rfl, rfl, rfl, rfl⟩, rfl⟩ := decodeSrc3_eq_some hsrc3
        refine ⟨by simpa using hbad, op, row, _, hrow, ?_, rfl, rfl, ?_⟩
        · exact hwf
        · simp only [VexOps.body, bit3_ofBool_append, low3_ofBool_append, List.cons_append]
    · cases h

end Vex

section Evex

variable {op : Byte} {row : EvexOps → Instr}

/-- The fields of R66 fit, but a forbidden byte stood before. -/
theorem decodeEvex_bad (hrow : evexRow op = some row) (pre : Prefixes) (o : EvexOps) (rest : List Byte) :
    decodeEvex pre true (o.body op ++ rest) = .ud := by
  obtain ⟨-, -, -, -, hmap⟩ := evexByte0_fields (o.dest.getLsbD 3) o.src3.xBit o.src3.bBit (o.dest.getLsbD 4) 2#4
  obtain ⟨hw, -, hpp⟩ := evexByte1_fields true (o.src2.extractLsb' 0 4) 5#3
  simp only [EvexOps.body, List.cons_append, decodeEvex, hmap, hw, hpp, and_self, if_true, hrow]

/-- The bytes of an EVEX form read the form, or raise #UD where R85 reserves it. -/
theorem decodeEvex_body (hrow : evexRow op = some row) {o : EvexOps} (h : o.src3.wf = true) (rest : List Byte) :
    decodeEvex o.pre false (o.body op ++ rest) = if o.reserved then .ud else .insn (row o) rest := by
  obtain ⟨hr, hx, hb, hr', hmap⟩ :=
    evexByte0_fields (o.dest.getLsbD 3) o.src3.xBit o.src3.bBit (o.dest.getLsbD 4) 2#4
  obtain ⟨hw, hv, hpp⟩ := evexByte1_fields true (o.src2.extractLsb' 0 4) 5#3
  obtain ⟨hz, hll, hbit, hv', haaa⟩ := evexByte2_fields o.z o.ll o.b (o.src2.getLsbD 4) o.aaa
  obtain ⟨-, hreg, -⟩ := modrmByte_fields o.src3.mod (o.dest.extractLsb' 0 3) o.src3.rm
  simp only [EvexOps.body, List.cons_append, decodeEvex, hr, hx, hb, hr', hmap, hw, hv, hpp, hz, hll, hbit, hv', haaa,
    hreg, and_self, if_true, hrow, Bool.not_not, decodeSrc3_tail h, ofBool_append_bit3_append_low3, ofBool_append_low4,
    Bool.false_eq_true, if_false]

/-- What is read after 62H as an instruction has no forbidden byte before it and is a well-formed EVEX form, whole. -/
theorem decodeEvex_eq_insn {pre : Prefixes} {bad : Bool} {bs rest : List Byte} {i : Instr}
    (h : decodeEvex pre bad bs = .insn i rest) :
    bad = false ∧ ∃ op row o, evexRow op = some row ∧ o.wf = true ∧ o.pre = pre ∧ i = row o ∧
      bs = o.body op ++ rest := by
  match bs with
  | p0 :: p1 :: p2 :: op :: bs =>
    obtain ⟨r, x, b, r', map, rfl⟩ := exists_evexByte0 p0
    obtain ⟨w, v, pp, rfl⟩ := exists_evexByte1 p1
    obtain ⟨z, ll, bit, v', aaa, rfl⟩ := exists_evexByte2 p2
    obtain ⟨hr, hx, hb, hr', hmap⟩ := evexByte0_fields r x b r' map
    obtain ⟨hw, hv, hpp⟩ := evexByte1_fields w v pp
    obtain ⟨hz, hll, hbit, hv', haaa⟩ := evexByte2_fields z ll bit v' aaa
    simp only [decodeEvex, hr, hx, hb, hr', hmap, hw, hv, hpp, hz, hll, hbit, hv', haaa, Bool.not_not] at h
    split at h
    · next hfields =>
      obtain ⟨rfl, rfl, rfl⟩ := hfields
      split at h
      · cases h
      next row hrow =>
      split at h
      · cases h
      next hbad =>
      match bs with
      | modrm :: bs =>
        obtain ⟨mod, reg, rm, rfl⟩ := exists_modrmByte modrm
        simp only [(modrmByte_fields mod reg rm).2.1] at h
        split at h
        · cases h
        next src3 rest' hsrc3 =>
        split at h
        · cases h
        next hres =>
        obtain ⟨rfl, rfl⟩ : row _ = i ∧ rest' = rest := by simpa using h
        obtain ⟨⟨hwf, rfl, rfl, rfl, rfl⟩, rfl⟩ := decodeSrc3_eq_some hsrc3
        refine ⟨by simpa using hbad, op, row, _, hrow, ?_, rfl, rfl, ?_⟩
        · exact (Bool.and_eq_true _ _).mpr ⟨hwf, by simpa using hres⟩
        · obtain ⟨hd4, hd3, hd⟩ := dest_fields r' r reg
          simp only [EvexOps.body, hd4, hd3, hd, bit4_ofBool_append, low4_ofBool_append, List.cons_append]
    · cases h

end Evex

/-! ## The rows of the opcode table -/

theorem vexRow_eq_some {op : Byte} {row : VexOps → Instr} :
    vexRow op = some row ↔ (op = 0x9F#8 ∧ row = .vfnmsub132sdVex) ∨ (op = 0xAF#8 ∧ row = .vfnmsub213sdVex) ∨
      (op = 0xBF#8 ∧ row = .vfnmsub231sdVex) := by
  unfold vexRow
  split_ifs with h1 h2 h3 <;> simp_all [eq_comm]

theorem evexRow_eq_some {op : Byte} {row : EvexOps → Instr} :
    evexRow op = some row ↔ (op = 0x9F#8 ∧ row = .vfnmsub132sdEvex) ∨ (op = 0xAF#8 ∧ row = .vfnmsub213sdEvex) ∨
      (op = 0xBF#8 ∧ row = .vfnmsub231sdEvex) := by
  unfold evexRow
  split_ifs with h1 h2 h3 <;> simp_all [eq_comm]

theorem vexRow_eq_none {op : Byte} : vexRow op = none ↔ op ≠ 0x9F#8 ∧ op ≠ 0xAF#8 ∧ op ≠ 0xBF#8 := by
  unfold vexRow
  split_ifs <;> simp_all

theorem evexRow_eq_none {op : Byte} : evexRow op = none ↔ op ≠ 0x9F#8 ∧ op ≠ 0xAF#8 ∧ op ≠ 0xBF#8 := by
  unfold evexRow
  split_ifs <;> simp_all

/-! ## An instruction after its legacy prefixes -/

/-- The bytes of an instruction from C4H or 62H on. -/
def Instr.body : Instr → List Byte
  | .vfnmsub132sdVex o => 0xC4#8 :: o.body 0x9F#8
  | .vfnmsub213sdVex o => 0xC4#8 :: o.body 0xAF#8
  | .vfnmsub231sdVex o => 0xC4#8 :: o.body 0xBF#8
  | .vfnmsub132sdEvex o => 0x62#8 :: o.body 0x9F#8
  | .vfnmsub213sdEvex o => 0x62#8 :: o.body 0xAF#8
  | .vfnmsub231sdEvex o => 0x62#8 :: o.body 0xBF#8

theorem encode_eq (i : Instr) : encode i = (Machine.prefixesOf i).bytes ++ i.body := by
  cases i <;> rfl

/-- A VEX form is the row of its opcode byte with its operands. -/
structure VexForm (i : Instr) (op : Byte) (row : VexOps → Instr) (o : VexOps) : Prop where
  opcode : vexRow op = some row
  eq : i = row o
  body : i.body = 0xC4#8 :: o.body op
  pre : Machine.prefixesOf i = o.pre
  wf : i.wf = o.wf

/-- An EVEX form is the row of its opcode byte with its operands. -/
structure EvexForm (i : Instr) (op : Byte) (row : EvexOps → Instr) (o : EvexOps) : Prop where
  opcode : evexRow op = some row
  eq : i = row o
  body : i.body = 0x62#8 :: o.body op
  pre : Machine.prefixesOf i = o.pre
  wf : i.wf = o.wf

theorem vexForm_of_row {op : Byte} {row : VexOps → Instr} (h : vexRow op = some row) (o : VexOps) :
    VexForm (row o) op row o := by
  obtain ⟨rfl, rfl⟩ | ⟨rfl, rfl⟩ | ⟨rfl, rfl⟩ := vexRow_eq_some.1 h <;> exact ⟨h, rfl, rfl, rfl, rfl⟩

theorem evexForm_of_row {op : Byte} {row : EvexOps → Instr} (h : evexRow op = some row) (o : EvexOps) :
    EvexForm (row o) op row o := by
  obtain ⟨rfl, rfl⟩ | ⟨rfl, rfl⟩ | ⟨rfl, rfl⟩ := evexRow_eq_some.1 h <;> exact ⟨h, rfl, rfl, rfl, rfl⟩

theorem vexForm_or_evexForm (i : Instr) : (∃ op row o, VexForm i op row o) ∨ ∃ op row o, EvexForm i op row o := by
  cases i with
  | vfnmsub132sdVex o => exact .inl ⟨0x9F#8, _, o, vexForm_of_row rfl o⟩
  | vfnmsub213sdVex o => exact .inl ⟨0xAF#8, _, o, vexForm_of_row rfl o⟩
  | vfnmsub231sdVex o => exact .inl ⟨0xBF#8, _, o, vexForm_of_row rfl o⟩
  | vfnmsub132sdEvex o => exact .inr ⟨0x9F#8, _, o, evexForm_of_row rfl o⟩
  | vfnmsub213sdEvex o => exact .inr ⟨0xAF#8, _, o, evexForm_of_row rfl o⟩
  | vfnmsub231sdEvex o => exact .inr ⟨0xBF#8, _, o, evexForm_of_row rfl o⟩

/-! ## The loop over the legacy bytes (R61, R89) -/

theorem decodeFrom_vex (p : Prefixes) (bad rexLast : Bool) (bs : List Byte) :
    decodeFrom p bad rexLast (0xC4#8 :: bs) = decodeVex p bad bs := rfl

theorem decodeFrom_evex (p : Prefixes) (bad rexLast : Bool) (bs : List Byte) :
    decodeFrom p bad rexLast (0x62#8 :: bs) = decodeEvex p bad bs := rfl

theorem segOfByte_eq_some {b : Byte} {g : Seg} : segOfByte b = some g ↔ b = g.byte := by
  constructor
  · intro h
    unfold segOfByte at h
    split_ifs at h <;> cases h <;> assumption
  · rintro rfl
    cases g <;> rfl

theorem isForbiddenByte_iff {b : Byte} :
    isForbiddenByte b = true ↔ b = 0x66#8 ∨ b = 0xF2#8 ∨ b = 0xF3#8 ∨ b = 0xF0#8 := by
  simp only [isForbiddenByte, Bool.or_eq_true, beq_iff_eq, or_assoc]

theorem isRex_iff {b : Byte} : isRex b = true ↔ 0x40#8 ≤ b ∧ b ≤ 0x4F#8 := by
  rw [isRex, beq_iff_eq, ← BitVec.toNat_inj, BitVec.extractLsb'_toNat, Nat.shiftRight_eq_div_pow, BitVec.le_def,
    BitVec.le_def]
  simp only [BitVec.toNat_ofNat]
  omega

theorem segOfByte_of_isForbiddenByte {b : Byte} (h : isForbiddenByte b = true) : segOfByte b = none := by
  obtain rfl | rfl | rfl | rfl := isForbiddenByte_iff.1 h <;> rfl

theorem segOfByte_of_isRex {b : Byte} (h : isRex b = true) : segOfByte b = none := by
  rw [Option.eq_none_iff_forall_ne_some]
  intro g hg
  rw [segOfByte_eq_some.1 hg] at h
  cases g <;> cases h

theorem ne_a32_of_isForbiddenByte {b : Byte} (h : isForbiddenByte b = true) : b ≠ 0x67#8 := by
  rintro rfl; cases h

theorem ne_a32_of_isRex {b : Byte} (h : isRex b = true) : b ≠ 0x67#8 := by
  rintro rfl; cases h

theorem isForbiddenByte_of_isRex {b : Byte} (h : isRex b = true) : isForbiddenByte b = false := by
  rw [← Bool.not_eq_true, isForbiddenByte_iff]
  rintro (rfl | rfl | rfl | rfl) <;> cases h

section Loop

variable (p : Prefixes) (bad : Bool) (bs : List Byte)

theorem decodeFrom_seg (g : Seg) : decodeFrom p bad false (g.byte :: bs) =
    (p.addSeg g).elim (.refuse .twoSegmentPrefixes) fun q => decodeFrom q bad false bs := by
  simp only [decodeFrom, segOfByte_eq_some.2 rfl, Bool.false_eq_true, if_false]
  cases p.addSeg g <;> rfl

theorem decodeFrom_a32 : decodeFrom p bad false (0x67#8 :: bs) =
    p.addA32.elim (.refuse .twoAddressSizePrefixes) fun q => decodeFrom q bad false bs := by
  cases p <;> rfl

theorem decodeFrom_forbidden {b : Byte} (h : isForbiddenByte b = true) :
    decodeFrom p bad false (b :: bs) = decodeFrom p true false bs := by
  simp only [decodeFrom, segOfByte_of_isForbiddenByte h, ne_a32_of_isForbiddenByte h, h, Bool.false_eq_true, if_false,
    if_true]

theorem decodeFrom_rex {b : Byte} (h : isRex b = true) :
    decodeFrom p bad false (b :: bs) = decodeFrom p true true bs := by
  simp only [decodeFrom, segOfByte_of_isRex h, ne_a32_of_isRex h, isForbiddenByte_of_isRex h, h, Bool.false_eq_true,
    if_false, if_true]

/-- After a REX byte no legacy byte and no other REX byte may stand (D27). -/
theorem decodeFrom_after_rex {b : Byte}
    (h : (∃ g : Seg, b = g.byte) ∨ b = 0x67#8 ∨ isForbiddenByte b = true ∨ isRex b = true) :
    decodeFrom p bad true (b :: bs) = .refuse .rexNotLast := by
  obtain ⟨g, rfl⟩ | rfl | h | h := h
  · simp only [decodeFrom, segOfByte_eq_some.2 rfl, if_true]
  · rfl
  · simp only [decodeFrom, segOfByte_of_isForbiddenByte h, ne_a32_of_isForbiddenByte h, h, if_false, if_true]
  · simp only [decodeFrom, segOfByte_of_isRex h, ne_a32_of_isRex h, isForbiddenByte_of_isRex h, h, Bool.false_eq_true,
      if_false, if_true]

/-- The permitted prefixes are taken in. -/
theorem decodeFrom_prefixes : decodeFrom .none bad false (p.bytes ++ bs) = decodeFrom p bad false bs := by
  cases p with
  | none => rfl
  | seg g => exact decodeFrom_seg .none bad bs g
  | a32 => rfl
  | segA32 g => exact decodeFrom_seg .none bad (0x67#8 :: bs) g
  | a32Seg g => exact decodeFrom_seg .a32 bad bs g

end Loop

theorem addSeg_bytes {p q : Prefixes} {g : Seg} (h : p.addSeg g = some q) : q.bytes = p.bytes ++ [g.byte] := by
  cases p <;> cases h <;> rfl

theorem addA32_bytes {p q : Prefixes} (h : p.addA32 = some q) : q.bytes = p.bytes ++ [0x67#8] := by
  cases p <;> cases h <;> rfl

/-! ## Decoding and encoding are inverse (R89) -/

theorem decodeFrom_body {i : Instr} (h : i.wf = true) (rexLast : Bool) (rest : List Byte) :
    decodeFrom (Machine.prefixesOf i) false rexLast (i.body ++ rest) = .insn i rest := by
  obtain ⟨op, row, o, hf⟩ | ⟨op, row, o, hf⟩ := vexForm_or_evexForm i
  · rw [hf.pre, hf.body, List.cons_append, decodeFrom_vex, decodeVex_body hf.opcode (hf.wf.symm.trans h), ← hf.eq]
  · obtain ⟨hsrc3, hres⟩ : o.src3.wf = true ∧ o.reserved = false := by
      simpa [hf.wf, EvexOps.wf] using h
    rw [hf.pre, hf.body, List.cons_append, decodeFrom_evex, decodeEvex_body hf.opcode hsrc3, hres, ← hf.eq]
    rfl

theorem decodeFrom_body_bad (i : Instr) (p : Prefixes) (rexLast : Bool) (rest : List Byte) :
    decodeFrom p true rexLast (i.body ++ rest) = .ud := by
  obtain ⟨op, row, o, hf⟩ | ⟨op, row, o, hf⟩ := vexForm_or_evexForm i
  · rw [hf.body, List.cons_append, decodeFrom_vex, decodeVex_bad hf.opcode]
  · rw [hf.body, List.cons_append, decodeFrom_evex, decodeEvex_bad hf.opcode]

theorem decodeBody_eq_insn {p : Prefixes} {bad : Bool} {b : Byte} {bs rest : List Byte} {i : Instr}
    (h : decodeBody p bad b bs = .insn i rest) :
    bad = false ∧ i.wf = true ∧ p = Machine.prefixesOf i ∧ b :: bs = i.body ++ rest := by
  unfold decodeBody at h
  split at h
  · next hb =>
    obtain ⟨hbad, op, row, o, hrow, hwf, rfl, rfl, rfl⟩ := decodeVex_eq_insn h
    have hf := vexForm_of_row hrow o
    exact ⟨hbad, hf.wf.trans hwf, hf.pre.symm, by rw [hf.body, hb, List.cons_append]⟩
  split at h
  · next hb =>
    obtain ⟨hbad, op, row, o, hrow, hwf, rfl, rfl, rfl⟩ := decodeEvex_eq_insn h
    have hf := evexForm_of_row hrow o
    exact ⟨hbad, hf.wf.trans hwf, hf.pre.symm, by rw [hf.body, hb, List.cons_append]⟩
  · cases h

/-- The loop keeps every byte: the prefixes taken in so far and the bytes still to read are the encoding. -/
theorem decodeFrom_eq_insn {p : Prefixes} {bad rexLast : Bool} {bs rest : List Byte} {i : Instr}
    (h : decodeFrom p bad rexLast bs = .insn i rest) :
    bad = false ∧ i.wf = true ∧ p.bytes ++ bs = encode i ++ rest := by
  induction bs generalizing p bad rexLast with
  | nil => cases h
  | cons b bs ih =>
    unfold decodeFrom at h
    split at h
    · next g hg =>
      split at h
      · cases h
      split at h
      · cases h
      next q hq =>
      obtain ⟨hbad, hwf, hbytes⟩ := ih h
      exact ⟨hbad, hwf, by rw [← hbytes, addSeg_bytes hq, segOfByte_eq_some.1 hg, List.append_assoc]; rfl⟩
    split at h
    · next hb =>
      split at h
      · cases h
      split at h
      · cases h
      next q hq =>
      obtain ⟨hbad, hwf, hbytes⟩ := ih h
      exact ⟨hbad, hwf, by rw [← hbytes, addA32_bytes hq, hb, List.append_assoc]; rfl⟩
    split at h
    · split at h
      · cases h
      · cases (ih h).1
    split at h
    · split at h
      · cases h
      · cases (ih h).1
    obtain ⟨hbad, hwf, rfl, hbytes⟩ := decodeBody_eq_insn h
    exact ⟨hbad, hwf, by rw [hbytes, encode_eq, List.append_assoc]⟩

/-- Settles O1: the prefixes are taken in, and the form after them is read from its fields. -/
theorem decodeOfEncode : Obligations.DecodeOfEncode := by
  intro i rest h
  rw [encode_eq, List.append_assoc, decode, decodeFrom_prefixes, decodeFrom_body h]

/-- Settles O2: the loop keeps every byte, from the first on. -/
theorem encodeOfDecode : Obligations.EncodeOfDecode := by
  intro bs rest i h
  obtain ⟨-, hwf, hbytes⟩ := decodeFrom_eq_insn h
  exact ⟨hwf, hbytes⟩

/-! ## What gives #UD and what is refused (R61, R85, D27) -/

/-- Settles O5: the forbidden byte is remembered up to the form, which is then #UD. -/
theorem forbiddenPrefixIsUndefined : Obligations.ForbiddenPrefixIsUndefined := by
  intro bs rest i b h
  obtain ⟨-, hbs⟩ := encodeOfDecode bs rest i h
  rw [hbs, encode_eq, List.append_assoc]
  constructor
  · intro hb
    have hforbidden : isForbiddenByte b = true := isForbiddenByte_iff.2 (by tauto)
    rw [decode, decodeFrom_forbidden _ _ _ hforbidden, decodeFrom_prefixes, decodeFrom_body_bad]
  · intro hb hpre
    rw [decode, decodeFrom_rex _ _ _ (isRex_iff.2 hb), hpre, Prefixes.bytes, List.nil_append, decodeFrom_body_bad]

/-- Settles O6: the loop takes in at most one byte of each kind, and nothing after a REX byte. -/
theorem repeatedPrefixesRefused : Obligations.RepeatedPrefixesRefused := by
  intro g h r b bs
  refine ⟨?_, ?_, rfl, ?_, fun hr hb => ?_⟩
  · rw [decode, decodeFrom_seg, Prefixes.addSeg, Option.elim_some, decodeFrom_seg, Prefixes.addSeg, Option.elim_none]
  · rw [decode, decodeFrom_seg, Prefixes.addSeg, Option.elim_some, decodeFrom_a32, Prefixes.addA32, Option.elim_some,
      decodeFrom_seg, Prefixes.addSeg, Option.elim_none]
  · rw [decode, decodeFrom_a32, Prefixes.addA32, Option.elim_some, decodeFrom_seg, Prefixes.addSeg, Option.elim_some,
      decodeFrom_a32, Prefixes.addA32, Option.elim_none]
  · rw [decode, decodeFrom_rex _ _ _ (isRex_iff.2 hr), decodeFrom_after_rex]
    rw [isForbiddenByte_iff, isRex_iff]
    obtain hb | hb := hb
    · exact .inl ⟨g, hb⟩
    · tauto

theorem reserved_eq_true {o : EvexOps} :
    o.reserved = true ↔
      (o.z = true ∧ o.aaa = 0#3) ∨ (o.b = true ∧ ∃ m, o.src3 = .mem m) ∨ (o.ll = 3#2 ∧ o.b = false) := by
  have hmem : o.src3.isReg = false ↔ ∃ m, o.src3 = .mem m := by
    cases o.src3 <;> simp [Src3.isReg]
  simp only [EvexOps.reserved, Bool.or_eq_true, Bool.and_eq_true, Bool.not_eq_true', beq_iff_eq, hmem, or_assoc,
    and_comm (a := o.b = false)]

theorem exists_evexRow {op : Byte} (h : op = 0x9F#8 ∨ op = 0xAF#8 ∨ op = 0xBF#8) : ∃ row, evexRow op = some row := by
  obtain rfl | rfl | rfl := h <;> exact ⟨_, rfl⟩

theorem decode_reserved {o : EvexOps} {op : Byte} (hop : op = 0x9F#8 ∨ op = 0xAF#8 ∨ op = 0xBF#8)
    (hsrc3 : o.src3.wf = true) (hres : o.reserved = true) (rest : List Byte) : decode (o.encode op ++ rest) = .ud := by
  obtain ⟨row, hrow⟩ := exists_evexRow hop
  rw [EvexOps.encode_eq, List.append_assoc, decode, decodeFrom_prefixes, List.cons_append, decodeFrom_evex,
    decodeEvex_body hrow hsrc3, if_pos hres]

/-- Settles O7: the three disjuncts are R85's reserved forms, which the decoder tests after the operands are read. -/
theorem reservedEvexIsUndefined : Obligations.ReservedEvexIsUndefined := fun _ _ rest hop hsrc3 hres =>
  decode_reserved hop hsrc3 (reserved_eq_true.2 hres) rest

/-! ## What is not in scope (R84, R85, K1.4, K1.5) -/

theorem decodeVex_notInScope {b1 b2 op : Byte}
    (h : ¬(b1.extractLsb' 0 5 = 2#5 ∧ b2.getLsbD 7 = true ∧ b2.extractLsb' 0 2 = 1#2) ∨ vexRow op = none)
    (pre : Prefixes) (bad : Bool) (bs : List Byte) : decodeVex pre bad (b1 :: b2 :: op :: bs) = .notInScope := by
  obtain h | h := h
  · rw [decodeVex, if_neg h]
  · simp only [decodeVex, h, ite_self]

theorem decodeEvex_notInScope {p0 p1 p2 op : Byte}
    (h : ¬(p0.extractLsb' 0 4 = 2#4 ∧ p1.getLsbD 7 = true ∧ p1.extractLsb' 0 3 = 5#3) ∨ evexRow op = none)
    (pre : Prefixes) (bad : Bool) (bs : List Byte) : decodeEvex pre bad (p0 :: p1 :: p2 :: op :: bs) = .notInScope := by
  obtain h | h := h
  · rw [decodeEvex, if_neg h]
  · simp only [decodeEvex, h, ite_self]

/-- The map of R66 and the reserved bits above it, which the decoder compares at once. -/
theorem map_and_reserved_of_low4 {p0 : Byte} (h : p0.extractLsb' 0 4 = 2#4) :
    p0.extractLsb' 0 2 = 2#2 ∧ p0.extractLsb' 2 2 = 0#2 := by
  constructor <;> rw [← BitVec.extractLsb'_extractLsb'_of_le (len' := 4) (by decide), h] <;> rfl

/-- The pp of R66 and the fixed bit above it. -/
theorem pp_and_fixed_of_low3 {p1 : Byte} (h : p1.extractLsb' 0 3 = 5#3) :
    p1.extractLsb' 0 2 = 1#2 ∧ p1.getLsbD 2 = true := by
  have hbit : p1.getLsbD 2 = (p1.extractLsb' 0 3).getLsbD 2 := by
    simp only [BitVec.getLsbD_extractLsb', Nat.reduceLT, decide_true, Bool.true_and, Nat.reduceAdd]
  rw [← BitVec.extractLsb'_extractLsb'_of_le (len' := 3) (by decide), hbit, h]
  decide

/-- Settles O8: with another field the test of R64 or R66 fails, and with another opcode there is no row. -/
theorem otherEncodingsNotInScope : Obligations.OtherEncodingsNotInScope := by
  intro b1 b2 b3 op rest
  refine ⟨fun h => ?_, fun h => ?_, rfl⟩
  · rw [decode, decodeFrom_vex]
    apply decodeVex_notInScope
    rw [vexRow_eq_none]
    rw [← Bool.not_eq_true] at h
    tauto
  · rw [decode, decodeFrom_evex]
    apply decodeEvex_notInScope
    rw [evexRow_eq_none]
    rw [← Bool.not_eq_true, ← Bool.not_eq_true] at h
    have hmap := map_and_reserved_of_low4 (p0 := b1)
    have hpp := pp_and_fixed_of_low3 (p1 := b2)
    tauto

/-! ## The opcode table's match and mask (R64, R66) -/

/-! Of each byte the mask keeps the fields that R64 and R66 fix. -/

theorem vexByte1_mask : ∀ r x b : Bool, vexByte1 r x b 2#5 &&& 0x1F#8 = 0x02#8 := by decide

theorem vexByte2_mask : ∀ (v : BitVec 4) (l : Bool), vexByte2 true v l 1#2 &&& 0x83#8 = 0x81#8 := by decide

theorem evexByte0_mask : ∀ r x b r' : Bool, evexByte0 r x b r' 2#4 &&& 0x0F#8 = 0x02#8 := by decide

theorem evexByte1_mask : ∀ v : BitVec 4, evexByte1 true v 5#3 &&& 0x87#8 = 0x85#8 := by decide

/-- Settles O3, mask and match taken byte by byte. -/
theorem encodingMatchesTableRow : Obligations.EncodingMatchesTableRow := by
  constructor
  · intro o op hpre
    refine ⟨_, _, _, _, by rw [VexOps.encode_eq, hpre]; rfl, ?_⟩
    have hmask : 0xFF1F83FF#32 = BitVec.allOnes 8 ++ 0x1F#8 ++ 0x83#8 ++ BitVec.allOnes 8 := by decide
    rw [hmask, BitVec.and_append, BitVec.and_append, BitVec.and_append, BitVec.and_allOnes, BitVec.and_allOnes,
      vexByte1_mask, vexByte2_mask]
  · intro o op hpre
    refine ⟨_, _, _, _, _, by rw [EvexOps.encode_eq, hpre]; rfl, ?_⟩
    have hmask : 0xFF0F8700FF#40 = BitVec.allOnes 8 ++ 0x0F#8 ++ 0x87#8 ++ 0x00#8 ++ BitVec.allOnes 8 := by decide
    rw [hmask, BitVec.and_append, BitVec.and_append, BitVec.and_append, BitVec.and_append, BitVec.and_allOnes,
      BitVec.and_allOnes, BitVec.and_zero, evexByte0_mask, evexByte1_mask]

/-- Settles O4, by running the decoder on the five words. -/
theorem sampleWordsDecode : Obligations.SampleWordsDecode := by
  unfold Obligations.SampleWordsDecode
  decide

end Sys2Proof

namespace Sys2Proof.Machine

open Sys2Proof

/-! ## The step at a reserved encoding (R85, 60_exceptions.md R160) -/

theorem prefixes_count_le (p : Prefixes) : p.count ≤ 2 := by
  cases p <;> simp [Prefixes.count]

theorem disp_size_le (d : Disp) : d.size ≤ 4 := by
  cases d <;> simp [Disp.size]

theorem src3_tailSize_le (r : Src3) : r.tailSize ≤ 5 := by
  cases r with
  | reg x n => simp [Src3.tailSize]
  | mem m =>
    cases m with
    | rip x b d => simp [Src3.tailSize]
    | base x r d => exact (disp_size_le d).trans (by decide)
    | sib sc i b d => exact Nat.add_le_add_left (disp_size_le d) 1
    | sibNoBase b sc i d => exact Nat.le_refl 5

/-- No encoding is longer than what is fetched (R60, R77). -/
theorem evexOps_length_le (o : EvexOps) : o.length ≤ maxInstrBytes := by
  have hpre := prefixes_count_le o.pre
  have htail := src3_tailSize_le o.src3
  rw [EvexOps.length, maxInstrBytes]
  omega

/-- Bytes that stand at the program counter are the first that are fetched. -/
theorem fetch_of_storedAtPc {s : State} {bs : List Byte} (h : StoredAtPc s bs) (hlen : bs.length ≤ maxInstrBytes) :
    ∃ rest, (fetch s).1 = bs ++ rest := by
  obtain ⟨hspace, hbytes⟩ := h
  refine fetchFrom_of_bytes hlen fun k hk => ?_
  obtain ⟨hcan, htr, hdev, hmem⟩ := hbytes k hk
  have hnowrap : ¬ s.fetchBase.toNat + k ≥ 2 ^ 64 := by omega
  simp only [Nat.zero_add, fetchByte, hnowrap, canonical_eq_true.2 hcan, pageFault_eq_none.2 htr,
    isDevice_eq_false.2 hdev, hmem, decide_false, Bool.not_true, Bool.or_self, Bool.false_eq_true, if_false]

/-- Settles O10: the bytes fetched begin with the reserved encoding, whatever follows. -/
theorem stepAtReservedEncodingRaises : Obligations.StepAtReservedEncodingRaises := by
  intro s o op hadm hop hsrc3 hres hstored
  obtain ⟨rest, hfetch⟩ := fetch_of_storedAtPc hstored
    ((Laws.evex_encode_length op o).trans_le (evexOps_length_le o))
  rw [step, admission_eq_none.2 hadm, hfetch, decode_reserved hop hsrc3 hres]
  rfl

/-! ## Addresses (R69, R72 to R76) -/

theorem segmentBase_eq (s : State) (pre : Prefixes) : segmentBase s pre = overrideBase s pre := by
  cases pre with
  | none => rfl
  | a32 => rfl
  | seg g => cases g <;> rfl
  | segA32 g => cases g <;> rfl
  | a32Seg g => cases g <;> rfl

theorem usesSS_eq_true {pre : Prefixes} {m : MemOp} :
    usesSS pre m = true ↔ (∀ g, g = .fs ∨ g = .gs → overrideSeg pre ≠ some g) ∧ baseIsStack m = true := by
  unfold usesSS
  split <;> simp_all

theorem overrideSeg_ne_some {pre : Prefixes} {g : Seg} :
    overrideSeg pre ≠ some g ↔ pre ≠ .seg g ∧ pre ≠ .segA32 g ∧ pre ≠ .a32Seg g := by
  cases pre <;> simp [overrideSeg]

theorem baseIsStack_eq_true {m : MemOp} : baseIsStack m = true ↔
    (∃ x r d, m = .base x r d ∧ (r = 4#4 ∨ r = 5#4)) ∨ (∃ sc i b d, m = .sib sc i b d ∧ (b = 4#4 ∨ b = 5#4)) := by
  cases m <;> simp [baseIsStack]

/-- Settles O53, the segment base and the choice of SS each by its own lemma. -/
theorem segmentOverrideAddsBase : Obligations.SegmentOverrideAddsBase := by
  intro s n next m pre
  constructor
  · rw [linearAddr, segmentBase_eq]
  · simp only [usesSS_eq_true, overrideSeg_ne_some, baseIsStack_eq_true]

/-! R72's parts, as R69 and R75 give them. -/

theorem ofInt_toInt_signExtend (d : BitVec 32) : BitVec.ofInt 64 d.toInt = d.signExtend 64 := rfl

/-- A displacement is the number of bytes of R69 and R75, modulo 2^64. -/
theorem dispValue_eq (n : Nat) (d : Disp) : dispValue n d = BitVec.ofInt 64 (dispOffset n d) := by
  cases d with
  | none => rfl
  | d8 d =>
    rw [dispOffset, BitVec.ofInt_mul, BitVec.mul_comm, BitVec.ofInt_natCast]
    rfl
  | d32 d => rfl

/-- The index term is a shift by the scale, and none for number 4 (R72). -/
theorem indexValue_eq (s : State) (sc : BitVec 2) (i : BitVec 4) :
    indexValue s sc i = if i = 4#4 then 0#64 else s.readG i <<< sc.toNat := by
  have hpow : BitVec.ofNat 64 (2 ^ sc.toNat) = BitVec.twoPow 64 sc.toNat := by
    rw [← BitVec.toNat_inj, BitVec.toNat_ofNat, BitVec.toNat_twoPow]
  rw [indexValue, hpow, BitVec.mul_twoPow_eq_shiftLeft]

theorem memAddr_eq (i : Instr) (s : State) (m : MemOp) :
    memAddr i s m = linearAddr s (prefixesOf i) (disp8Scale i).toNat (s.rip + BitVec.ofNat 64 i.length) m := by
  cases i <;> rfl

theorem disp8Scale_toNat (i : Instr) : ((disp8Scale i).toNat : Int) = disp8Scale i := by
  cases i <;> rfl

/-- Without 67H the sum of R72 stands as it is. -/
theorem memAddr_of_addr64 {i : Instr} (h : addr32 (prefixesOf i) = false) (s : State) (m : MemOp) :
    memAddr i s m = overrideBase s (prefixesOf i) +
      addressSum s (disp8Scale i).toNat (s.rip + BitVec.ofNat 64 i.length) m := by
  rw [memAddr_eq, linearAddr, segmentBase_eq, effectiveAddr, h]
  rfl

/-- Under 67H the low half of the sum is zero-extended (R73). -/
theorem memAddr_of_addr32 {i : Instr} (h : addr32 (prefixesOf i) = true) (s : State) (m : MemOp) :
    memAddr i s m = overrideBase s (prefixesOf i) +
      ((addressSum s (disp8Scale i).toNat (s.rip + BitVec.ofNat 64 i.length) m).setWidth 32).setWidth 64 := by
  rw [memAddr_eq, linearAddr, segmentBase_eq, effectiveAddr, h]
  rfl

/-- Settles O54: the sum of R72 in its parts, in each addressing form. -/
theorem disp8Scaling : Obligations.Disp8Scaling := by
  intro i s x b r idx sc d e h
  have hreach : ∀ d8 : Byte, -1024 ≤ dispOffset 8 (.d8 d8) ∧ dispOffset 8 (.d8 d8) ≤ 1016 := by
    intro d8
    have hlo := BitVec.le_toInt d8
    have hhi := BitVec.toInt_lt (x := d8)
    simp only [dispOffset]
    omega
  refine ⟨?_, ?_, ?_, ?_, hreach⟩ <;>
    simp only [memAddr_of_addr64 h, addressSum, indexValue_eq, dispValue_eq, disp8Scale_toNat, ofInt_toInt_signExtend]

/-! The low half of a sum is the sum of the low halves (R73). -/

theorem low_add (x y : Addr) : (x + y).setWidth 32 = x.setWidth 32 + y.setWidth 32 :=
  BitVec.setWidth_add x y (by decide)

theorem low_dispValue (n : Nat) (d : Disp) : (dispValue n d).setWidth 32 = BitVec.ofInt 32 (dispOffset n d) := by
  rw [dispValue_eq, ← BitVec.toNat_inj, BitVec.toNat_setWidth, BitVec.toNat_ofInt, BitVec.toNat_ofInt]
  omega

theorem low_signExtend (e : BitVec 32) : (e.signExtend 64).setWidth 32 = e := by
  have h := low_dispValue 1 (.d32 e)
  rwa [dispOffset, BitVec.ofInt_toInt] at h

theorem low_indexValue (s : State) (sc : BitVec 2) (i : BitVec 4) : (indexValue s sc i).setWidth 32 =
    if i = 4#4 then 0#32 else (s.readG i).setWidth 32 <<< sc.toNat := by
  rw [indexValue_eq, apply_ite (BitVec.setWidth 32), BitVec.setWidth_shiftLeft_of_le (by decide)]
  rfl

/-- Settles O52: the low half of the sum of R72, taken into its parts, in each addressing form. -/
theorem addressSize32 : Obligations.AddressSize32 := by
  intro i s x b r idx sc d e h
  refine ⟨?_, ?_, ?_, ?_⟩ <;>
    simp only [memAddr_of_addr32 h, addressSum, low_add, low_indexValue, low_dispValue, low_signExtend,
      disp8Scale_toNat]

/-! ## VEX.L (R84) -/

theorem execVex_any_l (parts : Parts) (o : VexOps) (l l' : Bool) (s : State) :
    execVex parts { o with l := l } s = execVex parts { o with l := l' } s := rfl

/-- Settles O55: ExecVEX reads every operand but VEX.L. -/
theorem vexLengthIgnored : Obligations.VexLengthIgnored := fun o s =>
  ⟨execVex_any_l _ o true false s, execVex_any_l _ o true false s, execVex_any_l _ o true false s⟩

end Sys2Proof.Machine

/-! The family 40_numerics.md: the binary64 format, rounding on integers, what FNMSUB64 can return, and the statements
about its results and flags. -/

namespace Sys2Proof.Machine

open Sys2Proof

/-! ## Flag accumulation (R118) -/

/-- Settles O42: a form that completes ORs flags into MXCSR, and ZE is none of them. -/
theorem flagsAreSticky : Obligations.FlagsAreSticky := by
  intro i s t h
  obtain ⟨f, q, hc⟩ := exec_next h
  rw [hc.left, setRip_mxcsr, writeLow_mxcsr]
  refine ⟨fun k _ hk => ?_, (orFlags_flagsAdded s f).ze⟩
  rw [orFlags_mxcsr, BitVec.getLsbD_or, hk, Bool.true_or]

/-! ## The fields of a pattern (R102) -/

theorem biasedExp_eq (u : Quad) : biasedExp u = u.toNat / 2 ^ 52 % 2 ^ 11 := by
  simp [biasedExp, BitVec.extractLsb'_toNat, Nat.shiftRight_eq_div_pow]

theorem fraction_eq (u : Quad) : fraction u = u.toNat % 2 ^ 52 := by
  simp [fraction, BitVec.extractLsb'_toNat]

theorem signBit_eq (u : Quad) : signBit u = decide (2 ^ 63 ≤ u.toNat) := by
  rw [signBit, ← BitVec.msb_eq_getLsbD_last, BitVec.msb_eq_decide]

theorem biasedExp_lt (u : Quad) : biasedExp u < 2 ^ 11 := BitVec.isLt _

theorem fraction_lt (u : Quad) : fraction u < 2 ^ 52 := BitVec.isLt _

section Assemble

variable {s : Bool} {e f : Nat}

theorem toNat_assemble (he : e < 2 ^ 11) (hf : f < 2 ^ 52) :
    (assemble s e f).toNat = s.toNat * 2 ^ 63 + e * 2 ^ 52 + f := by
  have hlow : ((s.toNat <<< 11 ||| e) <<< 52) ||| f = (s.toNat <<< 11 ||| e) * 2 ^ 52 + f := by
    rw [← Nat.shiftLeft_add_eq_or_of_lt hf, Nat.shiftLeft_eq]
  rw [assemble, BitVec.toNat_append, BitVec.toNat_append, BitVec.toNat_ofBool, BitVec.toNat_ofNat, BitVec.toNat_ofNat,
    Nat.mod_eq_of_lt he, Nat.mod_eq_of_lt hf, hlow, ← Nat.shiftLeft_add_eq_or_of_lt he, Nat.shiftLeft_eq]
  ring

@[simp] theorem signBit_assemble : signBit (assemble s e f) = s := by
  rw [signBit, assemble, BitVec.append_assoc, BitVec.getLsbD_cast]
  exact getLsbD_ofBool_append s _

theorem biasedExp_assemble (he : e < 2 ^ 11) (hf : f < 2 ^ 52) : biasedExp (assemble s e f) = e := by
  rw [biasedExp_eq, toNat_assemble he hf]
  omega

theorem fraction_assemble (he : e < 2 ^ 11) (hf : f < 2 ^ 52) : fraction (assemble s e f) = f := by
  rw [fraction_eq, toNat_assemble he hf]
  omega

end Assemble

/-- A pattern is put together from its fields. -/
theorem assemble_fields (u : Quad) : assemble (signBit u) (biasedExp u) (fraction u) = u := by
  apply BitVec.eq_of_toNat_eq
  rw [toNat_assemble (biasedExp_lt u) (fraction_lt u), signBit_eq, biasedExp_eq, fraction_eq]
  have hlt := u.isLt
  by_cases hs : 2 ^ 63 ≤ u.toNat
  · rw [decide_eq_true hs, Bool.toNat_true]
    omega
  · rw [decide_eq_false hs, Bool.toNat_false]
    omega

/-! ## The classes of a pattern (R102) -/

section Classes

variable {u : Quad}

theorem isZero_iff : isZero u = true ↔ biasedExp u = 0 ∧ fraction u = 0 := by simp [isZero]
theorem isDenormal_iff : isDenormal u = true ↔ biasedExp u = 0 ∧ fraction u ≠ 0 := by simp [isDenormal]
theorem isFinite_iff : isFinite u = true ↔ biasedExp u ≠ 2047 := by simp [isFinite]
theorem isInf_iff : isInf u = true ↔ biasedExp u = 2047 ∧ fraction u = 0 := by simp [isInf]
theorem isNan_iff : isNan u = true ↔ biasedExp u = 2047 ∧ fraction u ≠ 0 := by simp [isNan]

/-- Bit 51 is the top bit of the fraction. -/
theorem bit51_eq_false : u.getLsbD 51 = false ↔ fraction u < 2 ^ 51 := by
  have hbit : u.getLsbD 51 = (u.extractLsb' 0 52).msb := by
    simp [BitVec.msb_eq_getLsbD_last, -BitVec.getLsbD_eq_getElem]
  rw [hbit, BitVec.msb_eq_false_iff_two_mul_lt, fraction]
  omega

theorem isSnan_iff : isSnan u = true ↔ biasedExp u = 2047 ∧ fraction u ≠ 0 ∧ fraction u < 2 ^ 51 := by
  rw [isSnan, Bool.and_eq_true, isNan_iff, Bool.not_eq_true', bit51_eq_false, and_assoc]

theorem isNan_of_isSnan (h : isSnan u = true) : isNan u = true := (Bool.and_eq_true_iff.1 h).1

theorem isFinite_eq_false : isFinite u = false ↔ isNan u = true ∨ isInf u = true := by
  rw [← Bool.not_eq_true, isFinite_iff, isNan_iff, isInf_iff]
  tauto

theorem not_nan_of_finite (h : isFinite u = true) : isNan u = false := by
  rw [← Bool.not_eq_true, isNan_iff]
  exact fun hn => isFinite_iff.1 h hn.1

theorem not_inf_of_finite (h : isFinite u = true) : isInf u = false := by
  rw [← Bool.not_eq_true, isInf_iff]
  exact fun hi => isFinite_iff.1 h hi.1

end Classes

/-! ## The value of a finite pattern (R102) -/

theorem magnitude_of_exp_zero {u : Quad} (h : biasedExp u = 0) : magnitude u = fraction u := if_pos h

theorem magnitude_of_exp_ne_zero {u : Quad} (h : biasedExp u ≠ 0) :
    magnitude u = (2 ^ 52 + fraction u) * 2 ^ (biasedExp u - 1) := if_neg h

/-- |val(u)| is the significand, with its hidden bit, times a power of two (R102). -/
theorem magnitude_div_eq (u : Quad) : (magnitude u : ℚ) / 2 ^ 1074 =
    (if biasedExp u = 0 then (fraction u : ℚ) else 2 ^ 52 + fraction u) *
      (2 : ℚ) ^ ((if biasedExp u = 0 then 1 else (biasedExp u : ℤ)) - 1075) := by
  by_cases h : biasedExp u = 0
  · rw [magnitude_of_exp_zero h, if_pos h, if_pos h, show (1 - 1075 : ℤ) = -(1074 : ℕ) by decide, zpow_neg,
      zpow_natCast, div_eq_mul_inv]
  · obtain ⟨k, hk⟩ := Nat.exists_eq_succ_of_ne_zero h
    have hexp : ((biasedExp u : ℤ) - 1075) = (k : ℤ) - (1074 : ℕ) := by rw [hk]; push_cast; ring
    rw [magnitude_of_exp_ne_zero h, if_neg h, if_neg h, hexp, zpow_sub₀ two_ne_zero, zpow_natCast, zpow_natCast, hk]
    push_cast
    exact mul_div_assoc _ _ _

/-- Settles O16: each class and the value read off the fields. -/
theorem binaryValue : Obligations.BinaryValue := by
  intro u
  simp only [← biasedExp_eq, ← fraction_eq]
  refine ⟨isZero_iff, isDenormal_iff, isFinite_iff, isInf_iff, isNan_iff, isSnan_iff, fun _ => ?_⟩
  rw [mul_assoc, ← magnitude_div_eq, val, scaledVal, signBit_eq]
  simp only [decide_eq_true_eq]
  split
  · rw [Int.cast_neg, Int.cast_natCast, neg_div, neg_one_mul]
  · rw [Int.cast_natCast, one_mul]

/-! ## RInt (R113) -/

/-- A directed mode moves the magnitude of a number of sign `s` up. -/
def roundsAway (s : Bool) : RM → Bool
  | .rn => false
  | .rd => s
  | .ru => !s
  | .rz => false

section Rint

variable {m u N : ℕ} {s : Bool} {rm : RM}

theorem rint_of_mod_eq_zero (h : m % u = 0) : rint m u s rm = m / u := if_pos h

theorem rint_of_toward (hrm : rm ≠ .rn) (h : roundsAway s rm = false) : rint m u s rm = m / u := by
  cases rm <;> cases s <;> simp_all [rint, roundsAway]

theorem rint_of_away (h : roundsAway s rm = true) (hr : m % u ≠ 0) : rint m u s rm = m / u + 1 := by
  cases rm <;> cases s <;> simp_all [rint, roundsAway]

/-- A mode that does not move the magnitude up takes the multiple at or below. -/
theorem rint_toward (hu : 0 < u) (hrm : rm ≠ .rn) (h : roundsAway s rm = false) :
    rint m u s rm * u ≤ m ∧ m < rint m u s rm * u + u := by
  rw [rint_of_toward hrm h]
  have := Nat.div_add_mod' m u
  have := Nat.mod_lt m hu
  omega

/-- A mode that moves the magnitude up takes the multiple at or above. -/
theorem rint_away (hu : 0 < u) (h : roundsAway s rm = true) :
    m ≤ rint m u s rm * u ∧ rint m u s rm * u < m + u := by
  have := Nat.div_add_mod' m u
  have := Nat.mod_lt m hu
  by_cases hr : m % u = 0
  · rw [rint_of_mod_eq_zero hr]
    omega
  · rw [rint_of_away h hr, Nat.succ_mul]
    omega

/-- RN takes a nearest multiple, and at a tie an even one. -/
theorem rint_nearest (hu : 0 < u) :
    2 * (rint m u s .rn * u) ≤ 2 * m + u ∧ 2 * m ≤ 2 * (rint m u s .rn * u) + u ∧
    (2 * (rint m u s .rn * u) = 2 * m + u ∨ 2 * m = 2 * (rint m u s .rn * u) + u → rint m u s .rn % 2 = 0) := by
  have := Nat.div_add_mod' m u
  have := Nat.mod_lt m hu
  simp only [rint]
  split_ifs <;> simp only [Nat.succ_mul] <;> omega

/-- In every mode RInt stays within one unit of its argument. -/
theorem rint_within (hu : 0 < u) : rint m u s rm * u < m + u ∧ m < rint m u s rm * u + u := by
  cases hr : roundsAway s rm with
  | true =>
    have := rint_away (m := m) hu hr
    omega
  | false =>
    by_cases hrm : rm = .rn
    · subst hrm
      have := rint_nearest (m := m) (s := s) hu
      omega
    · have := rint_toward (m := m) hu hrm hr
      omega

theorem rint_le (hu : 0 < u) (h : m ≤ N * u) : rint m u s rm ≤ N := by
  refine Nat.le_of_lt_succ (Nat.lt_of_mul_lt_mul_right (a := u) ?_)
  have := rint_within (m := m) (s := s) (rm := rm) hu
  rw [Nat.succ_mul]
  omega

theorem le_rint (hu : 0 < u) (h : N * u ≤ m) : N ≤ rint m u s rm := by
  refine Nat.le_of_lt_succ (Nat.lt_of_mul_lt_mul_right (a := u) ?_)
  have := rint_within (m := m) (s := s) (rm := rm) hu
  rw [Nat.succ_mul]
  omega

/-- RInt changes its argument exactly where that is no multiple of the unit. -/
theorem rint_mul_eq_iff : rint m u s rm * u = m ↔ m % u = 0 := by
  refine ⟨fun h => ?_, fun h => ?_⟩
  · rw [← h]
    exact Nat.mul_mod_left _ _
  · rw [rint_of_mod_eq_zero h]
    exact Nat.div_mul_cancel (Nat.dvd_of_mod_eq_zero h)

/-- Where RInt stays below an integer `N` (an even one in RN): below `N` less half a unit in RN, at most `N - 1` where the
magnitude moves up, below `N` where it does not. -/
theorem rint_mul_lt_iff (hu : 0 < u) (hN : N % 2 = 0) : rint m u s rm * u < N * u ↔
    if rm = .rn then 2 * m + u < 2 * (N * u) else if roundsAway s rm then m + u ≤ N * u else m < N * u := by
  have hstep : rint m u s rm * u + u ≤ N * u ∨ N * u ≤ rint m u s rm * u := by
    rw [← Nat.succ_mul]
    exact (Nat.lt_or_ge (rint m u s rm) N).imp (Nat.mul_le_mul_right u) (Nat.mul_le_mul_right u)
  split_ifs with hrm hr
  · subst hrm
    obtain ⟨hle, hge, htie⟩ := rint_nearest (m := m) (s := s) hu
    have hodd : rint m u s .rn % 2 = 0 → rint m u s .rn * u + u ≠ N * u := fun heven h => by
      rw [← Nat.succ_mul] at h
      have := Nat.eq_of_mul_eq_mul_right hu h
      omega
    omega
  · have := rint_away (m := m) hu hr
    omega
  · have := rint_toward (m := m) hu hrm (by simpa using hr)
    omega

end Rint

/-! ## Rounding to 53 bits, with the exponent unbounded (R113) -/

theorem ulp53_pos (m : ℕ) : 0 < ulp53 m := Nat.two_pow_pos _

section Round53

variable {m k : ℕ} {s : Bool} {rm : RM}

/-- The leading bit is 52 places above the unit. -/
theorem ulp53_bounds (hm : 2 ^ 52 ≤ m) : 2 ^ 52 * ulp53 m ≤ m ∧ m < 2 ^ 53 * ulp53 m := by
  have hne : m ≠ 0 := by omega
  have he : 52 ≤ m.log2 := (Nat.le_log2 hne).2 hm
  rw [ulp53, ← Nat.pow_add, ← Nat.pow_add, show 52 + (m.log2 - 52) = m.log2 by omega,
    show 53 + (m.log2 - 52) = m.log2 + 1 by omega]
  exact ⟨Nat.log2_self_le hne, Nat.lt_log2_self⟩

/-- The bound on a magnitude that rounding to 53 bits leaves below 2^k. -/
def RoundsBelow (k m : ℕ) (s : Bool) (rm : RM) : Prop :=
  if rm = .rn then m + 2 ^ (k - 54) < 2 ^ k else if roundsAway s rm then m + 2 ^ (k - 53) ≤ 2 ^ k else m < 2 ^ k

/-- Rounding to 53 bits stays below a power of two exactly within its mode's bound (R113 to R115). -/
theorem round53_lt_iff (hm : 2 ^ 52 ≤ m) (hk : 54 ≤ k) : round53 m s rm < 2 ^ k ↔ RoundsBelow k m s rm := by
  obtain ⟨hlo, hhi⟩ := ulp53_bounds hm
  have hu := ulp53_pos m
  have h53 : 2 ^ k = 2 ^ 53 * 2 ^ (k - 53) := by rw [← Nat.pow_add]; congr 1; omega
  have h54 : 2 ^ (k - 53) = 2 * 2 ^ (k - 54) := by rw [← Nat.pow_succ']; congr 1; omega
  rcases Nat.lt_trichotomy (m.log2 - 52) (k - 53) with h | h | h
  · have hsmall : 2 * ulp53 m ≤ 2 ^ (k - 53) := by
      rw [ulp53, ← Nat.pow_succ']
      exact Nat.pow_le_pow_right (by decide) h
    have hr : round53 m s rm ≤ 2 ^ 53 * ulp53 m := Nat.mul_le_mul_right _ (rint_le hu hhi.le)
    refine iff_of_true (by omega) ?_
    unfold RoundsBelow
    split_ifs <;> omega
  · have hunit : ulp53 m = 2 ^ (k - 53) := by rw [ulp53, h]
    rw [round53, h53, ← hunit, rint_mul_lt_iff hu (by decide), RoundsBelow, hunit, h53]
    split_ifs <;> omega
  · have hlarge : 2 * 2 ^ (k - 53) ≤ ulp53 m := by
      rw [ulp53, ← Nat.pow_succ']
      exact Nat.pow_le_pow_right (by decide) h
    have hr : 2 ^ 52 * ulp53 m ≤ round53 m s rm := Nat.mul_le_mul_right _ (le_rint hu hlo)
    refine iff_of_false (by omega) ?_
    unfold RoundsBelow
    split_ifs <;> omega

/-- The rounded magnitude has a significand of 53 bits. -/
theorem rint_ulp53_bounds (hm : 2 ^ 52 ≤ m) : 2 ^ 52 ≤ rint m (ulp53 m) s rm ∧ rint m (ulp53 m) s rm ≤ 2 ^ 53 := by
  obtain ⟨hlo, hhi⟩ := ulp53_bounds hm
  have hu := ulp53_pos m
  exact ⟨le_rint hu hlo, rint_le hu hhi.le⟩

end Round53

/-- A number of 53 bits that reaches 2^(j+52) is a multiple of 2^j. -/
theorem two_pow_dvd_of_le {n a j : ℕ} (hn : n < 2 ^ 53) (h : 2 ^ 52 * 2 ^ j ≤ n * 2 ^ a) : 2 ^ j ∣ n * 2 ^ a := by
  have hlt : 2 ^ 52 * 2 ^ j < 2 ^ 53 * 2 ^ a := h.trans_lt (Nat.mul_lt_mul_of_pos_right hn (Nat.two_pow_pos a))
  rw [← Nat.pow_add, ← Nat.pow_add, Nat.pow_lt_pow_iff_right (by decide)] at hlt
  exact Dvd.dvd.mul_left (Nat.pow_dvd_pow 2 (by omega)) n

/-! ## Rounding a signed number -/

/-- The number with sign `s` and magnitude `n`. -/
def signed (s : Bool) (n : ℕ) : ℤ := if s then -(n : ℤ) else n

theorem signed_natAbs (V : ℤ) : signed (decide (V < 0)) V.natAbs = V := by
  by_cases h : V < 0
  · rw [signed, decide_eq_true h, if_pos rfl]
    omega
  · rw [signed, decide_eq_false h, if_neg Bool.false_ne_true]
    omega

theorem natAbs_signed (s : Bool) (n : ℕ) : (signed s n).natAbs = n := by
  cases s <;> simp [signed]

theorem signed_mul (s : Bool) (n k : ℕ) : signed s (n * k) = signed s n * k := by
  cases s <;> simp [signed]

/-- Numbers of one sign have a product on the positive side. -/
theorem signed_mul_signed_nonneg (s : Bool) (m n : ℕ) : 0 ≤ signed s m * signed s n := by
  cases s with
  | true => rw [signed, signed, if_pos rfl, if_pos rfl, neg_mul_neg]; positivity
  | false => rw [signed, signed, if_neg Bool.false_ne_true, if_neg Bool.false_ne_true]; positivity

/-- `V` rounded to a multiple of `u`. -/
def roundTo (V : ℤ) (u : ℕ) (rm : RM) : ℤ :=
  signed (decide (V < 0)) (rint V.natAbs u (decide (V < 0)) rm * u)

section RoundTo

variable {V W : ℤ} {u B : ℕ} {rm : RM}

theorem dvd_roundTo : (u : ℤ) ∣ roundTo V u rm := by
  rw [roundTo, signed_mul]
  exact Dvd.intro_left _ rfl

/-- RD takes the greatest multiple not above. -/
theorem roundTo_rd (hu : 0 < u) : roundTo V u .rd ≤ V ∧ V < roundTo V u .rd + u := by
  by_cases hs : V < 0
  · have := rint_away (m := V.natAbs) (s := true) (rm := .rd) hu rfl
    simp only [roundTo, signed, hs, decide_true, if_true]
    omega
  · have := rint_toward (m := V.natAbs) (s := false) (rm := .rd) hu (by decide) rfl
    simp only [roundTo, signed, hs, decide_false, Bool.false_eq_true, if_false]
    omega

/-- RU takes the least multiple not below. -/
theorem roundTo_ru (hu : 0 < u) : V ≤ roundTo V u .ru ∧ roundTo V u .ru < V + u := by
  by_cases hs : V < 0
  · have := rint_toward (m := V.natAbs) (s := true) (rm := .ru) hu (by decide) rfl
    simp only [roundTo, signed, hs, decide_true, if_true]
    omega
  · have := rint_away (m := V.natAbs) (s := false) (rm := .ru) hu rfl
    simp only [roundTo, signed, hs, decide_false, Bool.false_eq_true, if_false]
    omega

theorem natAbs_roundTo : (roundTo V u rm).natAbs = rint V.natAbs u (decide (V < 0)) rm * u := natAbs_signed _ _

/-- RZ takes the multiple of greatest magnitude not beyond. -/
theorem roundTo_rz (hu : 0 < u) :
    (roundTo V u .rz).natAbs ≤ V.natAbs ∧ V.natAbs < (roundTo V u .rz).natAbs + u := by
  rw [natAbs_roundTo]
  exact rint_toward hu (by decide) rfl

/-- Rounding keeps the side of zero. -/
theorem roundTo_mul_nonneg : 0 ≤ roundTo V u rm * V := by
  rw [roundTo]
  conv => rhs; rhs; rw [← signed_natAbs V]
  exact signed_mul_signed_nonneg _ _ _

/-- RN takes a nearest multiple, and at a tie an even one. -/
theorem roundTo_rn (hu : 0 < u) : 2 * |roundTo V u .rn - V| ≤ u ∧
    (2 * |roundTo V u .rn - V| = u → rint V.natAbs u (decide (V < 0)) .rn % 2 = 0) := by
  obtain ⟨hle, hge, htie⟩ := rint_nearest (m := V.natAbs) (s := decide (V < 0)) hu
  have habs : |roundTo V u .rn - V| = |((rint V.natAbs u (decide (V < 0)) .rn * u : ℕ) : ℤ) - V.natAbs| := by
    conv => lhs; rhs; rhs; rw [← signed_natAbs V]
    rw [roundTo]
    cases decide (V < 0) with
    | true => rw [signed, signed, if_pos rfl, if_pos rfl, ← abs_neg]; congr 1; ring
    | false => rfl
  rw [habs, Int.abs_eq_natAbs]
  omega

theorem roundTo_eq_iff : roundTo V u rm = V ↔ V.natAbs % u = 0 := by
  rw [← rint_mul_eq_iff (s := decide (V < 0)) (rm := rm)]
  refine ⟨fun h => ?_, fun h => ?_⟩
  · rw [← natAbs_roundTo, h]
  · rw [roundTo, h, signed_natAbs]

end RoundTo

/-! ## Finite patterns and exact values at one scale: the integers of `exactScaled`, times 2^-2200 -/

/-- val(u) * 2^2200. -/
def fixedVal (u : Quad) : ℤ := scaledVal u * 2 ^ 1126

/-- The rational that an integer at the scale of exact values stands for. -/
def ofFixed (V : ℤ) : ℚ := V / 2 ^ 2200

theorem val_eq_ofFixed (u : Quad) : val u = ofFixed (fixedVal u) := by
  rw [val, ofFixed, fixedVal, show (2200 : ℕ) = 1074 + 1126 from rfl, pow_add, Int.cast_mul, Int.cast_pow, Int.cast_ofNat,
    mul_div_mul_right _ _ (pow_ne_zero _ two_ne_zero)]

theorem exactValue_eq_ofFixed (x y z : Quad) : exactValue x y z = ofFixed (exactScaled x y z) := by
  have h1 : (2 : ℚ) ^ 2200 = 2 ^ 1074 * 2 ^ 1074 * 2 ^ 52 := by rw [← pow_add, ← pow_add]
  have h2 : (2 : ℚ) ^ 2200 = 2 ^ 1074 * 2 ^ 1126 := by rw [← pow_add]
  have hxy : val x * val y = (scaledVal x * scaledVal y * 2 ^ 52 : ℚ) / 2 ^ 2200 := by
    rw [val, val, div_mul_div_comm, h1, mul_div_mul_right _ _ (pow_ne_zero _ two_ne_zero)]
  have hz : val z = (scaledVal z * 2 ^ 1126 : ℚ) / 2 ^ 2200 := by
    rw [val, h2, mul_div_mul_right _ _ (pow_ne_zero _ two_ne_zero)]
  rw [exactValue, hxy, hz, ofFixed, exactScaled, ← neg_div, ← sub_div, Int.cast_sub, Int.cast_mul, Int.cast_mul,
    Int.cast_neg, Int.cast_mul, Int.cast_pow, Int.cast_pow, Int.cast_ofNat, neg_mul]

section OfFixed

variable {V W : ℤ}

theorem scale_pos : (0 : ℚ) < 2 ^ 2200 := pow_pos two_pos _

theorem ofFixed_le : ofFixed V ≤ ofFixed W ↔ V ≤ W := by
  rw [ofFixed, ofFixed, div_le_div_iff_of_pos_right scale_pos, Int.cast_le]

theorem ofFixed_lt : ofFixed V < ofFixed W ↔ V < W := by
  rw [ofFixed, ofFixed, div_lt_div_iff_of_pos_right scale_pos, Int.cast_lt]

theorem ofFixed_inj : ofFixed V = ofFixed W ↔ V = W := by
  rw [ofFixed, ofFixed, div_left_inj' scale_pos.ne', Int.cast_inj]

@[simp] theorem ofFixed_zero : ofFixed 0 = 0 := by
  rw [ofFixed, Int.cast_zero, zero_div]

theorem ofFixed_sub : ofFixed V - ofFixed W = ofFixed (V - W) := by
  rw [ofFixed, ofFixed, ofFixed, Int.cast_sub, sub_div]

theorem ofFixed_neg : -ofFixed V = ofFixed (-V) := by
  rw [ofFixed, ofFixed, Int.cast_neg, neg_div]

theorem ofFixed_abs : |ofFixed V| = ofFixed V.natAbs := by
  rw [ofFixed, ofFixed, abs_div, abs_of_pos scale_pos, ← Int.cast_abs, Int.abs_eq_natAbs]

theorem ofFixed_pos : 0 < ofFixed V ↔ 0 < V := by rw [← ofFixed_zero, ofFixed_lt]

theorem ofFixed_neg_iff : ofFixed V < 0 ↔ V < 0 := by rw [← ofFixed_zero, ofFixed_lt]

theorem ofFixed_eq_zero : ofFixed V = 0 ↔ V = 0 := by rw [← ofFixed_zero, ofFixed_inj]

theorem ofFixed_mul_nonneg (h : 0 ≤ V * W) : 0 ≤ ofFixed V * ofFixed W := by
  rw [ofFixed, ofFixed, div_mul_div_comm, ← Int.cast_mul]
  exact div_nonneg (Int.cast_nonneg h) (mul_pos scale_pos scale_pos).le

end OfFixed

/-- Every exact value is a multiple of 2^52 at its scale. -/
theorem dvd_exactScaled (x y z : Quad) : (2 ^ 52 : ℤ) ∣ exactScaled x y z := by
  refine dvd_sub (dvd_mul_left _ _) (Dvd.dvd.mul_left ?_ _)
  exact pow_dvd_pow 2 (by decide)

/-- So a non-zero one has its 53 leading bits above the units place. -/
theorem le_natAbs_exactScaled {x y z : Quad} (h : exactScaled x y z ≠ 0) : 2 ^ 52 ≤ (exactScaled x y z).natAbs :=
  Nat.le_of_dvd (Int.natAbs_pos.2 h) (Int.natAbs_dvd_natAbs.2 (dvd_exactScaled x y z))

/-! ## The finite patterns as numbers of 53 bits (R102) -/

theorem fixedVal_eq (u : Quad) : fixedVal u = signed (signBit u) (magnitude u * 2 ^ 1126) := by
  rw [fixedVal, signed_mul, Nat.cast_pow, Nat.cast_ofNat, scaledVal, signed]

theorem natAbs_fixedVal (u : Quad) : (fixedVal u).natAbs = magnitude u * 2 ^ 1126 := by
  rw [fixedVal_eq, natAbs_signed]

/-- A magnitude has 53 bits. -/
theorem exists_magnitude_eq (u : Quad) : ∃ n k, n < 2 ^ 53 ∧ magnitude u = n * 2 ^ k := by
  have hf := fraction_lt u
  by_cases h : biasedExp u = 0
  · exact ⟨fraction u, 0, by omega, by rw [magnitude_of_exp_zero h, Nat.pow_zero, Nat.mul_one]⟩
  · exact ⟨2 ^ 52 + fraction u, biasedExp u - 1, by omega, magnitude_of_exp_ne_zero h⟩

/-- A magnitude is bounded by its exponent. -/
theorem magnitude_le {u : Quad} {k : ℕ} (h : biasedExp u - 1 ≤ k) : magnitude u ≤ (2 ^ 53 - 1) * 2 ^ k := by
  have hf := fraction_lt u
  have hk : 2 ^ (biasedExp u - 1) ≤ 2 ^ k := Nat.pow_le_pow_right (by decide) h
  by_cases h0 : biasedExp u = 0
  · rw [magnitude_of_exp_zero h0]
    exact (show fraction u ≤ (2 ^ 53 - 1) * 1 by omega).trans (Nat.mul_le_mul_left _ Nat.one_le_two_pow)
  · rw [magnitude_of_exp_ne_zero h0]
    exact Nat.mul_le_mul (by omega) hk

theorem magnitude_mul_le {u : Quad} {k : ℕ} (h : biasedExp u - 1 ≤ k) (i : ℕ) :
    magnitude u * 2 ^ i ≤ (2 ^ 53 - 1) * 2 ^ (k + i) := by
  rw [Nat.pow_add, ← Nat.mul_assoc]
  exact Nat.mul_le_mul_right _ (magnitude_le h)

/-- MAXF at the scale of exact values (R102). -/
def maxFixed : ℕ := (2 ^ 53 - 1) * 2 ^ 3171

/-- No finite pattern is beyond MAXF. -/
theorem natAbs_fixedVal_le {u : Quad} (h : isFinite u = true) : (fixedVal u).natAbs ≤ maxFixed := by
  have he : biasedExp u - 1 ≤ 2045 := by
    have := biasedExp_lt u
    have := isFinite_iff.1 h
    omega
  rw [natAbs_fixedVal, maxFixed, show (3171 : ℕ) = 2045 + 1126 from rfl]
  exact magnitude_mul_le he 1126

section Assembled

variable {s : Bool} {e f : ℕ}

/-- The value of a pattern with E = 0. -/
theorem fixedVal_assemble_zero (hf : f < 2 ^ 52) : fixedVal (assemble s 0 f) = signed s (f * 2 ^ 1126) := by
  rw [fixedVal_eq, signBit_assemble, magnitude_of_exp_zero (biasedExp_assemble (by decide) hf),
    fraction_assemble (by decide) hf]

/-- The value of a pattern with E not 0. -/
theorem fixedVal_assemble (h0 : e ≠ 0) (he : e < 2 ^ 11) (hf : f < 2 ^ 52) :
    fixedVal (assemble s e f) = signed s ((2 ^ 52 + f) * 2 ^ (e + 1125)) := by
  rw [fixedVal_eq, signBit_assemble, magnitude_of_exp_ne_zero ((biasedExp_assemble he hf).trans_ne h0),
    biasedExp_assemble he hf, fraction_assemble he hf, Nat.mul_assoc, ← Nat.pow_add, show e - 1 + 1126 = e + 1125 by omega]

theorem isFinite_assemble (he : e < 2047) (hf : f < 2 ^ 52) : isFinite (assemble s e f) = true := by
  rw [isFinite_iff, biasedExp_assemble (he.trans (by decide)) hf]
  exact he.ne

/-- The last bit of a pattern is that of its fraction. -/
theorem bit0_assemble (heven : f % 2 = 0) : (assemble s e f).getLsbD 0 = false := by
  rw [assemble, BitVec.getLsbD_append, if_pos (by decide), BitVec.getLsbD_ofNat]
  simp [Nat.testBit_zero, heven]

end Assembled

@[simp] theorem isFinite_signedZero (s : Bool) : isFinite (signedZero s) = true :=
  isFinite_assemble (by decide) (by decide)

@[simp] theorem fixedVal_signedZero (s : Bool) : fixedVal (signedZero s) = 0 := by
  rw [signedZero, fixedVal_assemble_zero (by decide), Nat.zero_mul]
  cases s <;> rfl

theorem fixedVal_signedMax (s : Bool) : fixedVal (signedMax s) = signed s maxFixed := by
  rw [signedMax, fixedVal_assemble (by decide) (by decide) (by decide), maxFixed,
    show 2 ^ 52 + (2 ^ 52 - 1) = 2 ^ 53 - 1 from rfl, show 2046 + 1125 = 3171 from rfl]

@[simp] theorem isFinite_signedInf (s : Bool) : isFinite (signedInf s) = false := by
  rw [← Bool.not_eq_true, isFinite_iff, signedInf, biasedExp_assemble (by decide) (by decide)]
  exact not_not.2 rfl

/-! ## Encoding a rounded magnitude (R113, R115) -/

/-- `res` holds the signed magnitude `n * u`, with an even last bit where `n` is even. -/
structure Encodes (res : Quad) (s : Bool) (n u : ℕ) : Prop where
  finite : isFinite res = true
  value : fixedVal res = signed s (n * u)
  even : n % 2 = 0 → res.getLsbD 0 = false

/-- The fields of a normal number. -/
theorem encodeNormal_mul {n j e : ℕ} (s : Bool) (hlo : 2 ^ 52 ≤ n) (hhi : n < 2 ^ 53) (hj : j = e + 1125) :
    encodeNormal s (n * 2 ^ j) = assemble s e (n - 2 ^ 52) := by
  have hlog : (n * 2 ^ j).log2 = 52 + j := by
    rw [Nat.log2_eq_iff (Nat.mul_ne_zero (by omega) (Nat.two_pow_pos j).ne'), Nat.pow_add,
      show 52 + j + 1 = 53 + j by omega, Nat.pow_add]
    exact ⟨Nat.mul_le_mul_right _ hlo, Nat.mul_lt_mul_of_pos_right hhi (Nat.two_pow_pos j)⟩
  have hexp : 52 + j + 1023 - scale = e := by
    rw [hj, scale]
    omega
  rw [encodeNormal, hlog, hexp, Nat.add_sub_cancel_left, Nat.mul_div_cancel _ (Nat.two_pow_pos j)]

/-- The exponents of the normal range, 2^-1022 to 2^1024, at the scale of exact values. -/
theorem normal_exponent {n j lo hi : ℕ} (hn : 2 ^ 52 ≤ n) (hn' : n < 2 ^ 53) (hmin : 2 ^ lo ≤ n * 2 ^ j)
    (hmax : n * 2 ^ j < 2 ^ hi) : lo < 53 + j ∧ 52 + j < hi := by
  have h1 := hmin.trans_lt (Nat.mul_lt_mul_of_pos_right hn' (Nat.two_pow_pos j))
  have h2 := (Nat.mul_le_mul_right (2 ^ j) hn).trans_lt hmax
  rw [← Nat.pow_add, Nat.pow_lt_pow_iff_right (by decide)] at h1 h2
  exact ⟨h1, h2⟩

theorem encodeNormal_encodes_of_lt {n j e : ℕ} (s : Bool) (hlo : 2 ^ 52 ≤ n) (hhi : n < 2 ^ 53) (hj : j = e + 1125)
    (he : 0 < e) (he' : e < 2047) : Encodes (encodeNormal s (n * 2 ^ j)) s n (2 ^ j) := by
  have hf : n - 2 ^ 52 < 2 ^ 52 := by omega
  rw [encodeNormal_mul s hlo hhi hj]
  refine ⟨isFinite_assemble he' hf, ?_, fun h => bit0_assemble (by omega)⟩
  rw [fixedVal_assemble he.ne' (he'.trans (by decide)) hf, Nat.add_sub_cancel' hlo, hj]

/-- A significand of 53 bits in the normal range, 2^53 included (R113). -/
theorem encodeNormal_encodes {n j : ℕ} (s : Bool) (hlo : 2 ^ 52 ≤ n) (hhi : n ≤ 2 ^ 53)
    (hmin : 2 ^ 1178 ≤ n * 2 ^ j) (hmax : n * 2 ^ j < 2 ^ 3224) : Encodes (encodeNormal s (n * 2 ^ j)) s n (2 ^ j) := by
  have hfield : ∀ i, 1178 < 53 + i ∧ 52 + i < 3224 → ∃ e, i = e + 1125 ∧ 0 < e ∧ e < 2047 := fun i hi =>
    ⟨i - 1125, by omega⟩
  rcases hhi.lt_or_eq with h | h
  · obtain ⟨e, hj, he, he'⟩ := hfield j (normal_exponent hlo h hmin hmax)
    exact encodeNormal_encodes_of_lt s hlo h hj he he'
  · have hdouble : n * 2 ^ j = 2 ^ 52 * 2 ^ (j + 1) := by
      rw [h, Nat.pow_succ' (n := j), ← Nat.mul_assoc, ← Nat.pow_succ]
    rw [hdouble] at hmin hmax
    obtain ⟨e, hj, he, he'⟩ := hfield (j + 1) (normal_exponent le_rfl (by decide) hmin hmax)
    obtain ⟨hfinite, hvalue, heven⟩ := encodeNormal_encodes_of_lt s le_rfl (by decide) hj he he'
    rw [← hdouble] at hfinite hvalue heven
    exact ⟨hfinite, hvalue, fun _ => heven (by decide)⟩

theorem denormUnit_eq : denormUnit = 2 ^ 1126 := congrArg (2 ^ ·) (show scale - 1074 = 1126 from rfl)

/-- A multiple of the denormal unit up to the smallest normal number (R115). -/
theorem encodeDenorm_encodes {n : ℕ} (s : Bool) (h : n ≤ 2 ^ 52) : Encodes (encodeDenorm s n) s n denormUnit := by
  rw [encodeDenorm, denormUnit_eq]
  split
  · rename_i hlt
    exact ⟨isFinite_assemble (by decide) hlt, fixedVal_assemble_zero hlt, bit0_assemble⟩
  · obtain rfl : n = 2 ^ 52 := by omega
    refine ⟨isFinite_assemble (by decide) (by decide), ?_, fun _ => bit0_assemble rfl⟩
    rw [fixedVal_assemble (by decide) (by decide) (by decide), Nat.add_zero, show 1 + 1125 = 1126 from rfl]

/-! ## The finite patterns around an exact value -/

/-- Near `V` every finite pattern is a multiple of `u`: all are but those below a multiple `B` that `V` reaches. -/
structure Grid (V : ℤ) (u B : ℕ) : Prop where
  pos : 0 < u
  dvd : u ∣ B
  le : B ≤ V.natAbs
  points : ∀ w, isFinite w = true → (u : ℤ) ∣ fixedVal w ∨ (fixedVal w).natAbs < B

/-- The multiples of R113's unit. -/
theorem grid_ulp53 {V : ℤ} (h : 2 ^ 52 ≤ V.natAbs) : Grid V (ulp53 V.natAbs) (2 ^ 52 * ulp53 V.natAbs) where
  pos := ulp53_pos _
  dvd := Nat.dvd_mul_left _ _
  le := (ulp53_bounds h).1
  points w _ := by
    obtain ⟨n, k, hn, hmag⟩ := exists_magnitude_eq w
    rw [Int.natCast_dvd, natAbs_fixedVal, hmag, Nat.mul_assoc, ← Nat.pow_add, or_iff_not_imp_right, Nat.not_lt]
    exact two_pow_dvd_of_le hn

/-- The multiples of R115's denormal unit. -/
theorem grid_denormUnit (V : ℤ) : Grid V denormUnit 0 where
  pos := Nat.two_pow_pos _
  dvd := Nat.dvd_zero _
  le := Nat.zero_le _
  points w _ := by
    rw [Int.natCast_dvd, natAbs_fixedVal, denormUnit_eq]
    exact .inl (Nat.dvd_mul_left _ _)

/-- A multiple of `u` less than one unit above another is not above it. -/
theorem le_of_dvd_of_lt_add {R W u : ℤ} (hR : u ∣ R) (hW : u ∣ W) (h : W < R + u) : W ≤ R := by
  by_contra hlt
  have := Int.le_of_dvd (by omega) (dvd_sub hW hR)
  omega

namespace Grid

variable {V : ℤ} {u B : ℕ} {w : Quad}

theorem dvd_int (g : Grid V u B) : (u : ℤ) ∣ (B : ℤ) := Int.natCast_dvd_natCast.2 g.dvd

theorem le_roundTo_rd (g : Grid V u B) (hw : isFinite w = true) (h : fixedVal w ≤ V) : fixedVal w ≤ roundTo V u .rd := by
  obtain ⟨-, hlt⟩ := roundTo_rd (V := V) g.pos
  have hle := g.le
  obtain hd | hB := g.points w hw
  · exact le_of_dvd_of_lt_add dvd_roundTo hd (by omega)
  · have := le_of_dvd_of_lt_add (dvd_roundTo (V := V) (rm := .rd)) g.dvd_int (by omega)
    omega

theorem roundTo_ru_le (g : Grid V u B) (hw : isFinite w = true) (h : V ≤ fixedVal w) : roundTo V u .ru ≤ fixedVal w := by
  obtain ⟨-, hlt⟩ := roundTo_ru (V := V) g.pos
  have hle := g.le
  obtain hd | hB := g.points w hw
  · exact le_of_dvd_of_lt_add hd dvd_roundTo (by omega)
  · have := le_of_dvd_of_lt_add (dvd_neg.2 g.dvd_int) (dvd_roundTo (V := V) (rm := .ru)) (by omega)
    omega

theorem natAbs_le_roundTo_rz (g : Grid V u B) (hw : isFinite w = true) (h : (fixedVal w).natAbs ≤ V.natAbs) :
    (fixedVal w).natAbs ≤ (roundTo V u .rz).natAbs := by
  obtain ⟨-, hlt⟩ := roundTo_rz (V := V) g.pos
  have hR : (u : ℤ) ∣ ((roundTo V u .rz).natAbs : ℤ) := Int.dvd_natAbs.2 dvd_roundTo
  have hle := g.le
  obtain hd | hB := g.points w hw
  · have := le_of_dvd_of_lt_add hR (Int.dvd_natAbs.2 hd) (by omega)
    omega
  · have := le_of_dvd_of_lt_add hR g.dvd_int (by omega)
    omega

/-- Two different multiples of `u` are a unit apart. -/
theorem le_natAbs_sub {R W : ℤ} (hR : (u : ℤ) ∣ R) (hW : (u : ℤ) ∣ W) (hne : W ≠ R) : u ≤ (W - R).natAbs :=
  Nat.le_of_dvd (by omega) (Int.natCast_dvd.1 (dvd_sub hW hR))

/-- A finite pattern is as far from `V` as the rounded number only as a multiple one unit from it; else it is further. -/
theorem roundTo_rn_cases (g : Grid V u B) (hw : isFinite w = true) :
    fixedVal w = roundTo V u .rn ∨ u ≤ (fixedVal w - roundTo V u .rn).natAbs ∨
    (roundTo V u .rn - V).natAbs < (fixedVal w - V).natAbs := by
  obtain ⟨hhalf, -⟩ := roundTo_rn (V := V) g.pos
  rw [Int.abs_eq_natAbs] at hhalf
  have hle := g.le
  obtain hd | hB := g.points w hw
  · by_cases heq : fixedVal w = roundTo V u .rn
    · exact .inl heq
    · exact .inr (.inl (le_natAbs_sub dvd_roundTo hd heq))
  · obtain ⟨B', hB', hdvd⟩ : ∃ B' : ℤ, ((V < 0 ∧ B' = -B) ∨ (0 ≤ V ∧ B' = B)) ∧ (u : ℤ) ∣ B' := by
      by_cases hs : V < 0
      · exact ⟨-B, .inl ⟨hs, rfl⟩, dvd_neg.2 g.dvd_int⟩
      · exact ⟨B, .inr ⟨by omega, rfl⟩, g.dvd_int⟩
    refine .inr (.inr ?_)
    by_cases heq : B' = roundTo V u .rn
    · omega
    · have := le_natAbs_sub dvd_roundTo hdvd heq
      omega

theorem roundTo_rn_le (g : Grid V u B) (hw : isFinite w = true) :
    (roundTo V u .rn - V).natAbs ≤ (fixedVal w - V).natAbs := by
  obtain ⟨hhalf, -⟩ := roundTo_rn (V := V) g.pos
  rw [Int.abs_eq_natAbs] at hhalf
  obtain h | h | h := g.roundTo_rn_cases hw <;> omega

/-- At a tie the rounded number is an even multiple. -/
theorem even_of_tie (g : Grid V u B) (hw : isFinite w = true) (hne : fixedVal w ≠ roundTo V u .rn)
    (htie : (fixedVal w - V).natAbs = (roundTo V u .rn - V).natAbs) :
    rint V.natAbs u (decide (V < 0)) .rn % 2 = 0 := by
  obtain ⟨hhalf, heven⟩ := roundTo_rn (V := V) g.pos
  rw [Int.abs_eq_natAbs] at hhalf heven
  apply heven
  obtain h | h | h := g.roundTo_rn_cases hw
  · exact absurd h hne
  · omega
  · omega

end Grid

/-! ## Overflow and tininess (R114, R115) as bounds on the exact value -/

section Bounds

variable {k m : ℕ} {s : Bool} {rm : RM} {V : ℤ}

theorem roundsBelow_rn : RoundsBelow k m s .rn ↔ m + 2 ^ (k - 54) < 2 ^ k := by
  simp [RoundsBelow]

theorem roundsBelow_rd : RoundsBelow k V.natAbs (decide (V < 0)) .rd ↔
    -((2 ^ k : ℕ) - (2 ^ (k - 53) : ℕ) : ℤ) ≤ V ∧ V < (2 ^ k : ℕ) := by
  have hle : 2 ^ (k - 53) ≤ 2 ^ k := Nat.pow_le_pow_right (by decide) (Nat.sub_le _ _)
  have hpos := Nat.two_pow_pos k
  simp only [RoundsBelow, reduceCtorEq, if_false, roundsAway, decide_eq_true_iff]
  split_ifs <;> omega

theorem roundsBelow_ru : RoundsBelow k V.natAbs (decide (V < 0)) .ru ↔
    -((2 ^ k : ℕ) : ℤ) < V ∧ V ≤ (2 ^ k : ℕ) - (2 ^ (k - 53) : ℕ) := by
  have hle : 2 ^ (k - 53) ≤ 2 ^ k := Nat.pow_le_pow_right (by decide) (Nat.sub_le _ _)
  have hpos := Nat.two_pow_pos k
  simp only [RoundsBelow, reduceCtorEq, if_false, roundsAway, Bool.not_eq_true', decide_eq_false_iff_not]
  split_ifs <;> omega

theorem roundsBelow_rz : RoundsBelow k m s .rz ↔ m < 2 ^ k := by
  simp [RoundsBelow, roundsAway]

theorem RoundsBelow.lt (h : RoundsBelow k m s rm) : m < 2 ^ k := by
  have := Nat.two_pow_pos (k - 54)
  have := Nat.two_pow_pos (k - 53)
  unfold RoundsBelow at h
  split_ifs at h <;> omega

/-- What rounds to 2^k or beyond is above the last number of 53 bits below 2^k. -/
theorem lt_of_not_roundsBelow (hk : 54 ≤ k) (h : ¬ RoundsBelow k m s rm) : (2 ^ 53 - 1) * 2 ^ (k - 53) < m := by
  have hpow : 2 ^ k = 2 ^ 53 * 2 ^ (k - 53) := by rw [← Nat.pow_add, Nat.add_sub_cancel' (by omega)]
  have hhalf : 2 ^ (k - 53) = 2 * 2 ^ (k - 54) := by
    rw [← Nat.pow_succ']
    congr 1
    omega
  have hpos := Nat.two_pow_pos (k - 54)
  unfold RoundsBelow at h
  split_ifs at h <;> omega

end Bounds

/-- `V` rounded to 53 bits, its magnitude (R113). -/
def rounded53 (V : ℤ) (rm : RM) : ℕ := round53 V.natAbs (decide (V < 0)) rm

theorem maxFixed_add : maxFixed + 2 ^ 3171 = 2 ^ 3224 := by
  rw [maxFixed, ← Nat.succ_mul, show (2 ^ 53 - 1 : ℕ).succ = 2 ^ 53 from rfl, show (3224 : ℕ) = 53 + 3171 from rfl, pow_add]

theorem two_pow_1178_le_maxFixed : 2 ^ 1178 ≤ maxFixed := by
  have hle : 2 ^ 1178 ≤ 2 ^ 3171 := pow_le_pow_right₀ one_le_two (by decide)
  exact hle.trans (Nat.le_mul_of_pos_left _ (by decide))

theorem overflows_eq (r : ℕ) : overflows r = decide (maxFixed < r) := by
  rw [overflows, maxFixed, show 971 + scale = 3171 from rfl]

theorem isTiny_eq (r : ℕ) : isTiny r = decide (r < 2 ^ 1178) := by
  rw [isTiny, show scale - 1022 = 1178 from rfl]

theorem isTiny_eq_false {r : ℕ} : isTiny r = false ↔ 2 ^ 1178 ≤ r := by
  rw [isTiny_eq, decide_eq_false_iff_not, Nat.not_lt]

section Ranges

variable {V : ℤ} {rm : RM}

/-- In the normal range the encoded number has the value of the rounded one. -/
theorem encodeNormal_rounded53 (hm : 2 ^ 52 ≤ V.natAbs) (hlo : 2 ^ 1178 ≤ rounded53 V rm)
    (hhi : rounded53 V rm < 2 ^ 3224) :
    Encodes (encodeNormal (decide (V < 0)) (rounded53 V rm)) (decide (V < 0))
      (rint V.natAbs (ulp53 V.natAbs) (decide (V < 0)) rm) (ulp53 V.natAbs) := by
  obtain ⟨h52, h53⟩ := rint_ulp53_bounds (s := decide (V < 0)) (rm := rm) hm
  exact encodeNormal_encodes _ h52 h53 hlo hhi

/-- The rounded magnitude exceeds MAXF exactly where it reaches 2^1024 (R114). -/
theorem overflows_iff_le (hm : 2 ^ 52 ≤ V.natAbs) : overflows (rounded53 V rm) = true ↔ 2 ^ 3224 ≤ rounded53 V rm := by
  have hmax := maxFixed_add
  have hpos := Nat.two_pow_pos 3171
  rw [overflows_eq, decide_eq_true_iff]
  refine ⟨fun h => ?_, fun h => by omega⟩
  by_contra hlt
  rw [Nat.not_le] at hlt
  have hlo : 2 ^ 1178 ≤ rounded53 V rm := two_pow_1178_le_maxFixed.trans h.le
  obtain ⟨hfinite, hvalue, -⟩ := encodeNormal_rounded53 hm hlo hlt
  have hle := natAbs_fixedVal_le hfinite
  rw [hvalue, natAbs_signed] at hle
  exact absurd hle (Nat.not_le.2 h)

theorem overflows_iff (hm : 2 ^ 52 ≤ V.natAbs) :
    overflows (rounded53 V rm) = true ↔ ¬ RoundsBelow 3224 V.natAbs (decide (V < 0)) rm := by
  rw [overflows_iff_le hm, ← round53_lt_iff hm (by decide), Nat.not_lt, rounded53]

theorem isTiny_iff (hm : 2 ^ 52 ≤ V.natAbs) :
    isTiny (rounded53 V rm) = true ↔ RoundsBelow 1178 V.natAbs (decide (V < 0)) rm := by
  rw [isTiny_eq, decide_eq_true_iff, ← round53_lt_iff hm (by decide), rounded53]

theorem not_overflows_of_isTiny {r : ℕ} (h : isTiny r = true) : overflows r = false := by
  rw [isTiny_eq, decide_eq_true_iff] at h
  rw [overflows_eq, decide_eq_false_iff_not, Nat.not_lt]
  exact h.le.trans two_pow_1178_le_maxFixed

end Ranges

/-! The constants of the bounds at the scale of exact values. -/

theorem two_pow_eq_ofFixed {a b : ℕ} (h : b = a + 2200) : (2 : ℚ) ^ a = ofFixed ((2 ^ b : ℕ) : ℤ) := by
  rw [ofFixed, h, Int.cast_natCast, Nat.cast_pow, Nat.cast_ofNat, pow_add, mul_div_cancel_right₀ _ scale_pos.ne']

theorem one_div_two_pow_eq_ofFixed {a b : ℕ} (h : b + a = 2200) : 1 / (2 : ℚ) ^ a = ofFixed ((2 ^ b : ℕ) : ℤ) := by
  rw [ofFixed, ← h, Int.cast_natCast, Nat.cast_pow, Nat.cast_ofNat, pow_add, div_mul_cancel_left₀ (pow_ne_zero _ two_ne_zero),
    one_div]

theorem maxFinite_eq_ofFixed : maxFinite = ofFixed maxFixed := by
  have h1024 := two_pow_eq_ofFixed (a := 1024) (b := 3224) rfl
  have h971 := two_pow_eq_ofFixed (a := 971) (b := 3171) rfl
  have hsum : maxFinite + 2 ^ 971 = 2 ^ 1024 := by
    rw [maxFinite, sub_mul, one_mul, sub_add_cancel, ← pow_add]
  rw [← eq_sub_iff_add_eq, h1024, h971, ofFixed_sub, ← maxFixed_add] at hsum
  rw [hsum, Nat.cast_add, add_sub_cancel_right]

theorem belowNormal_eq_ofFixed : belowNormal = ofFixed ((2 ^ 1178 : ℕ) - (2 ^ 1125 : ℕ)) := by
  rw [belowNormal, one_div_two_pow_eq_ofFixed (b := 1178) rfl, one_div_two_pow_eq_ofFixed (b := 1125) rfl, ofFixed_sub]

/-- Overflow by its bounds is overflow of the rounded magnitude (R113, R114). -/
theorem overflowsAt_iff {V : ℤ} {rm : RM} :
    OverflowsAt rm (ofFixed V) ↔ ¬ RoundsBelow 3224 V.natAbs (decide (V < 0)) rm := by
  have h1024 := two_pow_eq_ofFixed (a := 1024) (b := 3224) rfl
  have h970 := two_pow_eq_ofFixed (a := 970) (b := 3170) rfl
  have hmax : ((2 ^ 3224 : ℕ) - (2 ^ 3171 : ℕ) : ℤ) = maxFixed := by rw [← maxFixed_add, Nat.cast_add, add_sub_cancel_right]
  cases rm with
  | rn =>
    simp only [OverflowsAt, h1024, h970, ofFixed_abs, ofFixed_sub, ofFixed_le]
    rw [roundsBelow_rn, show 3224 - 54 = 3170 from rfl, sub_le_iff_le_add, ← Nat.cast_add, Nat.cast_le, Nat.not_lt]
  | rd =>
    simp only [OverflowsAt, h1024, maxFinite_eq_ofFixed, ofFixed_neg, ofFixed_le, ofFixed_lt]
    rw [roundsBelow_rd, show 3224 - 53 = 3171 from rfl, hmax, not_and_or, not_le, not_lt, or_comm]
  | ru =>
    simp only [OverflowsAt, h1024, maxFinite_eq_ofFixed, ofFixed_neg, ofFixed_le, ofFixed_lt]
    rw [roundsBelow_ru, show 3224 - 53 = 3171 from rfl, hmax, not_and_or, not_le, not_lt, or_comm]
  | rz =>
    simp only [OverflowsAt, h1024, ofFixed_abs, ofFixed_le]
    rw [roundsBelow_rz, Nat.cast_le, Nat.not_lt]

/-- On overflow the exact value itself is beyond MAXF. -/
theorem lt_natAbs_of_overflowsAt {V : ℤ} {rm : RM} (h : OverflowsAt rm (ofFixed V)) : maxFixed < V.natAbs := by
  have hlt := lt_of_not_roundsBelow (by decide) (overflowsAt_iff.1 h)
  rwa [show 3224 - 53 = 3171 from rfl, ← maxFixed] at hlt

/-- Tininess by its bounds is tininess of the rounded magnitude (R113, R115). -/
theorem tinyAt_iff {V : ℤ} {rm : RM} :
    TinyAt rm (ofFixed V) ↔ V ≠ 0 ∧ RoundsBelow 1178 V.natAbs (decide (V < 0)) rm := by
  have h1022 := one_div_two_pow_eq_ofFixed (a := 1022) (b := 1178) rfl
  have h1076 := one_div_two_pow_eq_ofFixed (a := 1076) (b := 1124) rfl
  refine and_congr (not_congr ofFixed_eq_zero) ?_
  cases rm with
  | rn =>
    simp only [h1022, h1076, ofFixed_abs, ofFixed_sub, ofFixed_lt]
    rw [roundsBelow_rn, show 1178 - 54 = 1124 from rfl, lt_sub_iff_add_lt, ← Nat.cast_add, Nat.cast_lt]
  | rd =>
    simp only [h1022, belowNormal_eq_ofFixed, ofFixed_neg, ofFixed_le, ofFixed_lt]
    rw [roundsBelow_rd, show 1178 - 53 = 1125 from rfl]
  | ru =>
    simp only [h1022, belowNormal_eq_ofFixed, ofFixed_neg, ofFixed_le, ofFixed_lt]
    rw [roundsBelow_ru, show 1178 - 53 = 1125 from rfl]
  | rz =>
    simp only [h1022, ofFixed_abs, ofFixed_lt]
    rw [roundsBelow_rz, Nat.cast_lt]

/-! ## The masks as they act (R117, 42_vfnmsub_sd_evex.md R146) -/

section Effective

variable (c : Ctl)

@[simp] theorem effective_daz : c.effective.daz = c.daz := by rw [Ctl.effective]; split <;> rfl
@[simp] theorem effective_ftz : c.effective.ftz = c.ftz := by rw [Ctl.effective]; split <;> rfl
@[simp] theorem effective_im : c.effective.im = (c.im || c.sae) := by cases h : c.sae <;> simp [Ctl.effective, h]
@[simp] theorem effective_dm : c.effective.dm = (c.dm || c.sae) := by cases h : c.sae <;> simp [Ctl.effective, h]
@[simp] theorem effective_om : c.effective.om = (c.om || c.sae) := by cases h : c.sae <;> simp [Ctl.effective, h]
@[simp] theorem effective_um : c.effective.um = (c.um || c.sae) := by cases h : c.sae <;> simp [Ctl.effective, h]
@[simp] theorem effective_pm : c.effective.pm = (c.pm || c.sae) := by cases h : c.sae <;> simp [Ctl.effective, h]

end Effective

/-! ## Operands after DAZ (R107) -/

section AfterDaz

variable {daz : Bool} {u : Quad}

@[simp] theorem afterDaz_false : afterDaz false u = u := if_neg fun h => Bool.false_ne_true h.1

theorem afterDaz_of_not_denormal (h : isDenormal u = false) : afterDaz daz u = u :=
  if_neg fun hd => Bool.false_ne_true (h.symm.trans hd.2)

/-- A denormal is replaced by a zero. -/
theorem isZero_sign (u : Quad) : isZero (u &&& 0x8000000000000000#64) = true := by
  have hm : u &&& 0x8000000000000000#64 = if u.getLsbD 63 then 0x8000000000000000#64 else 0#64 := BitVec.and_twoPow u 63
  rw [hm]
  split <;> decide

theorem not_denormal_of_isZero (h : isZero u = true) : isDenormal u = false := by
  rw [← Bool.not_eq_true, isDenormal_iff]
  exact fun hd => hd.2 (isZero_iff.1 h).2

theorem not_denormal_of_isNan (h : isNan u = true) : isDenormal u = false := by
  rw [← Bool.not_eq_true, isDenormal_iff]
  intro hd
  have := (isNan_iff.1 h).1.symm.trans hd.1
  omega

theorem not_nan_of_isDenormal (h : isDenormal u = true) : isNan u = false := by
  rw [← Bool.not_eq_true]
  exact fun hn => Bool.false_ne_true ((not_denormal_of_isNan hn).symm.trans h)

theorem not_nan_of_isZero (h : isZero u = true) : isNan u = false := by
  rw [← Bool.not_eq_true, isNan_iff]
  exact fun hn => hn.2 (isZero_iff.1 h).2

/-- DAZ leaves no denormal. -/
theorem isDenormal_afterDaz_true : isDenormal (afterDaz true u) = false := by
  by_cases h : isDenormal u = true
  · rw [afterDaz, if_pos ⟨rfl, h⟩]
    exact not_denormal_of_isZero (isZero_sign u)
  · rwa [afterDaz_of_not_denormal (by simpa using h), ← Bool.not_eq_true]

/-- DAZ does not touch a NaN, and makes none. -/
@[simp] theorem isNan_afterDaz : isNan (afterDaz daz u) = isNan u := by
  by_cases h : daz = true ∧ isDenormal u = true
  · rw [afterDaz, if_pos h, not_nan_of_isDenormal h.2]
    exact not_nan_of_isZero (isZero_sign u)
  · rw [afterDaz, if_neg h]

@[simp] theorem isSnan_afterDaz : isSnan (afterDaz daz u) = isSnan u := by
  cases h : isNan u with
  | true => rw [afterDaz_of_not_denormal (not_denormal_of_isNan h)]
  | false => rw [isSnan, isSnan, isNan_afterDaz, h, Bool.false_and, Bool.false_and]

theorem afterDaz_of_isNan (h : isNan u = true) : afterDaz daz u = u :=
  afterDaz_of_not_denormal (not_denormal_of_isNan h)

end AfterDaz

/-! ## The operation in its stages (R106, R119) -/

/-- No operand is a NaN. -/
def NoNan (x y z : Quad) : Prop := isNan x = false ∧ isNan y = false ∧ isNan z = false

/-- An operand is an SNaN. -/
def SomeSnan (x y z : Quad) : Prop := isSnan x = true ∨ isSnan y = true ∨ isSnan z = true

/-- Every operand is finite. -/
def AllFinite (x y z : Quad) : Prop := isFinite x = true ∧ isFinite y = true ∧ isFinite z = true

/-- The response to a finite non-zero exact value `V` where OE and UE are masked (R113 to R116): the result and whether OE,
UE and PE are signalled. -/
inductive Response (V : ℤ) (rm : RM) (ftz : Bool) : Quad → Bool → Bool → Bool → Prop
  | overflow (hover : overflows (rounded53 V rm) = true) :
      Response V rm ftz (overflowResult (decide (V < 0)) rm) true false true
  | flush (htiny : isTiny (rounded53 V rm) = true) (hftz : ftz = true) :
      Response V rm ftz (signedZero (decide (V < 0))) false true true
  | denormal (htiny : isTiny (rounded53 V rm) = true) (hftz : ftz = false) :
      Response V rm ftz (encodeDenorm (decide (V < 0)) (roundDenorm V.natAbs (decide (V < 0)) rm)) false
        (inexactDenorm V.natAbs) (inexactDenorm V.natAbs)
  | normal (hover : overflows (rounded53 V rm) = false) (htiny : isTiny (rounded53 V rm) = false) :
      Response V rm ftz (encodeNormal (decide (V < 0)) (rounded53 V rm)) false false (inexact53 V.natAbs)

/-- What the rounding of `V` returns (R113 to R117), with the DE signalled before and the free choice `pe`. -/
inductive Rounds (t : TrapRule) (V : ℤ) (rm : RM) (c : Ctl) (de pe : Bool) : FpResult → Prop
  | overflowTrap (hover : overflows (rounded53 V rm) = true) (hom : c.om = false) :
      Rounds t V rm c de pe (.trap { de := de, oe := true, pe := trapPe t (inexact53 V.natAbs) pe })
  | tinyTrap (htiny : isTiny (rounded53 V rm) = true) (hum : c.um = false) :
      Rounds t V rm c de pe (.trap { de := de, ue := true, pe := trapPe t (inexact53 V.natAbs) pe })
  | response {res : Quad} {oe ue inexact : Bool} (h : Response V rm c.ftz res oe ue inexact)
      (hom : overflows (rounded53 V rm) = true → c.om = true)
      (hum : isTiny (rounded53 V rm) = true → c.um = true) :
      Rounds t V rm c de pe
        (deliver (c.pm || !inexact) res { de := de, oe := oe, ue := ue, pe := inexact })

theorem roundStage_rounds (t : TrapRule) (V : ℤ) (rm : RM) (c : Ctl) (de pe : Bool) :
    Rounds t V rm c de pe (roundStage t V rm c { de := de } pe) := by
  unfold roundStage
  dsimp only
  rw [← rounded53]
  cases hover : overflows (rounded53 V rm) with
  | true =>
    rw [if_pos rfl]
    have htiny : isTiny (rounded53 V rm) = false := by
      rw [← Bool.not_eq_true]
      exact fun ht => Bool.false_ne_true ((not_overflows_of_isTiny ht).symm.trans hover)
    cases hom : c.om with
    | false => exact .overflowTrap hover hom
    | true =>
      simpa using Rounds.response (t := t) (de := de) (pe := pe) (.overflow hover) (fun _ => hom) (by simp [htiny])
  | false =>
    rw [if_neg Bool.false_ne_true]
    have hom : overflows (rounded53 V rm) = true → c.om = true := fun h => absurd (hover.symm.trans h) Bool.false_ne_true
    cases htiny : isTiny (rounded53 V rm) with
    | true =>
      rw [if_pos rfl]
      cases hum : c.um with
      | false => exact .tinyTrap htiny hum
      | true =>
        cases hftz : c.ftz with
        | true => simpa using Rounds.response (t := t) (de := de) (pe := pe) (.flush htiny hftz) hom (fun _ => hum)
        | false =>
          have h := Rounds.response (t := t) (de := de) (pe := pe) (.denormal htiny hftz) hom (fun _ => hum)
          cases hin : inexactDenorm V.natAbs <;> simpa [hin, deliver] using h
    | false =>
      have h := Rounds.response (t := t) (de := de) (pe := pe) (.normal hover htiny) hom (by simp [htiny])
      cases hin : inexact53 V.natAbs <;> simpa [hin, deliver] using h

/-- The operands pass the first stage (R106): no NaN, no invalid combination, and no DE that traps. -/
structure Proceeds (p : NumRules) (x y z : Quad) (c : Ctl) : Prop where
  noNan : NoNan x y z
  valid : ¬ InvalidTerms x y z
  masked : signalsDe p.de x y z = true → c.dm = true

/-- What the operation returns on operands after DAZ, stage by stage (R106 to R117). -/
inductive Computes (p : NumRules) (x y z : Quad) (rm : RM) (c : Ctl) : FpResult → Prop
  | quietNan (hn : ¬ NoNan x y z) (hs : ¬ SomeSnan x y z) : Computes p x y z rm c (.value (chosenNan p.nan x y z) {})
  | signalling (hs : SomeSnan x y z) :
      Computes p x y z rm c (deliver c.im (chosenNan p.nan x y z) { ie := true })
  | invalid (hn : NoNan x y z) (hv : InvalidTerms x y z) : Computes p x y z rm c (deliver c.im qnanIndef { ie := true })
  | denormalTrap (hn : NoNan x y z) (hv : ¬ InvalidTerms x y z) (hd : signalsDe p.de x y z = true) (hm : c.dm = false) :
      Computes p x y z rm c (.trap { de := true })
  | infiniteProduct (hp : Proceeds p x y z c) (h : isInf x = true ∨ isInf y = true) :
      Computes p x y z rm c (.value (signedInf (productSign x y)) { de := signalsDe p.de x y z })
  | infiniteSubtrahend (hp : Proceeds p x y z c) (hx : isInf x = false) (hy : isInf y = false) (h : isInf z = true) :
      Computes p x y z rm c (.value (signedInf (subtrahendSign z)) { de := signalsDe p.de x y z })
  | zero (hp : Proceeds p x y z c) (hf : AllFinite x y z) (h : exactScaled x y z = 0) :
      Computes p x y z rm c (.value (exactZero x y z rm) { de := signalsDe p.de x y z })
  | rounded (hp : Proceeds p x y z c) (hf : AllFinite x y z) (h : exactScaled x y z ≠ 0) {r : FpResult}
      (hr : Rounds p.trap (exactScaled x y z) rm c (signalsDe p.de x y z) (Config.freeTrapPe x y z rm) r) :
      Computes p x y z rm c r

theorem not_noNan {x y z : Quad} : (isNan x || isNan y || isNan z) = true ↔ ¬ NoNan x y z := by
  cases hx : isNan x <;> simp [NoNan, hx]
  cases isNan y <;> simp

theorem someSnan_iff {x y z : Quad} : (isSnan x || isSnan y || isSnan z) = true ↔ SomeSnan x y z := by
  simp [SomeSnan, or_assoc]

theorem not_noNan_of_someSnan {x y z : Quad} (h : SomeSnan x y z) : ¬ NoNan x y z := by
  rintro ⟨hx, hy, hz⟩
  obtain h | h | h := h
  · exact Bool.false_ne_true (hx.symm.trans (isNan_of_isSnan h))
  · exact Bool.false_ne_true (hy.symm.trans (isNan_of_isSnan h))
  · exact Bool.false_ne_true (hz.symm.trans (isNan_of_isSnan h))

theorem isFinite_of_not {u : Quad} (hn : isNan u = false) (hi : isInf u = false) : isFinite u = true := by
  rw [← Bool.not_eq_false, isFinite_eq_false, hn, hi]
  simp

/-- Everything the operation can do, said once. -/
theorem fnmsubCore_computes (p : NumRules) (x y z : Quad) (rm : RM) (c : Ctl) :
    Computes p x y z rm c (fnmsubCore p x y z rm c) := by
  unfold fnmsubCore
  split
  case isTrue hn =>
    unfold nanStage
    split
    case isTrue hs => exact .signalling (someSnan_iff.1 hs)
    case isFalse hs => exact .quietNan (not_noNan.1 hn) (mt someSnan_iff.2 hs)
  case isFalse hn =>
    have hn : NoNan x y z := not_not.1 (mt not_noNan.2 hn)
    split
    case isTrue hv => exact .invalid hn (isInvalid_eq_true.1 hv)
    case isFalse hv =>
      have hv : ¬ InvalidTerms x y z := mt isInvalid_eq_true.2 hv
      unfold numberStage
      dsimp only
      split
      case isTrue hd =>
        obtain ⟨hd, hm⟩ := Bool.and_eq_true_iff.1 hd
        rw [hd]
        exact .denormalTrap hn hv hd (by simpa using hm)
      case isFalse hd =>
        have hp : Proceeds p x y z c := ⟨hn, hv, by simpa using hd⟩
        split
        case isTrue hi => exact .infiniteProduct hp (by simpa using hi)
        case isFalse hi =>
          obtain ⟨hx, hy⟩ : isInf x = false ∧ isInf y = false := by simpa using hi
          split
          case isTrue hz => exact .infiniteSubtrahend hp hx hy hz
          case isFalse hz =>
            obtain ⟨hnx, hny, hnz⟩ := hn
            have hf : AllFinite x y z :=
              ⟨isFinite_of_not hnx hx, isFinite_of_not hny hy, isFinite_of_not hnz (by simpa using hz)⟩
            split
            case isTrue h0 => exact .zero hp hf h0
            case isFalse h0 => exact .rounded hp hf h0 (roundStage_rounds ..)

/-- A result with the flags of a trap changed by `g`. -/
def mapTrap (g : Flags → Flags) : FpResult → FpResult
  | .value res f => .value res f
  | .trap f => .trap (g f)

/-- The operation is its stages on the operands after DAZ, with the masks as they act; only the flags of a trap can be left
free (D19). -/
theorem fnmsub64_eq (p : NumRules) (x y z : Quad) (rm : RM) (c : Ctl) : fnmsub64 p x y z rm c =
    mapTrap (fun f => trapFlags p.trap f
        (Config.freeTrapFlags (afterDaz c.daz x) (afterDaz c.daz y) (afterDaz c.daz z) rm))
      (fnmsubCore p (afterDaz c.daz x) (afterDaz c.daz y) (afterDaz c.daz z) rm c.effective) := by
  simp only [fnmsub64, effective_daz, dazOperand_eq_afterDaz]
  split <;> rename_i heq <;> rw [heq] <;> rfl

theorem mapTrap_eq_value {g : Flags → Flags} {r : FpResult} {res : Quad} {f : Flags} :
    mapTrap g r = .value res f ↔ r = .value res f := by
  cases r <;> simp [mapTrap]

theorem trapFlags_of_ne {t : TrapRule} (ht : t ≠ .anyFlags) (f g : Flags) : trapFlags t f g = f := by
  cases t
  case anyFlags => exact absurd rfl ht
  all_goals rfl

section Operation

variable {p : NumRules} {x y z res : Quad} {rm : RM} {c : Ctl} {f : Flags}

theorem fnmsub64_eq_value : fnmsub64 p x y z rm c = .value res f ↔
    fnmsubCore p (afterDaz c.daz x) (afterDaz c.daz y) (afterDaz c.daz z) rm c.effective = .value res f := by
  rw [fnmsub64_eq, mapTrap_eq_value]

theorem fnmsub64_eq_core (ht : p.trap ≠ .anyFlags) : fnmsub64 p x y z rm c =
    fnmsubCore p (afterDaz c.daz x) (afterDaz c.daz y) (afterDaz c.daz z) rm c.effective := by
  rw [fnmsub64_eq]
  simp only [trapFlags_of_ne ht]
  cases fnmsubCore p (afterDaz c.daz x) (afterDaz c.daz y) (afterDaz c.daz z) rm c.effective <;> rfl

theorem fnmsub64_value (h : fnmsub64 p x y z rm c = .value res f) :
    Computes p (afterDaz c.daz x) (afterDaz c.daz y) (afterDaz c.daz z) rm c.effective (.value res f) := by
  rw [← fnmsub64_eq_value.1 h]
  exact fnmsubCore_computes ..

theorem fnmsub64_trap (ht : p.trap ≠ .anyFlags) (h : fnmsub64 p x y z rm c = .trap f) :
    Computes p (afterDaz c.daz x) (afterDaz c.daz y) (afterDaz c.daz z) rm c.effective (.trap f) := by
  rw [← h, fnmsub64_eq_core ht]
  exact fnmsubCore_computes ..

theorem fnmsub64_computes (ht : p.trap ≠ .anyFlags) :
    Computes p (afterDaz c.daz x) (afterDaz c.daz y) (afterDaz c.daz z) rm c.effective (fnmsub64 p x y z rm c) := by
  rw [fnmsub64_eq_core ht]
  exact fnmsubCore_computes ..

end Operation

/-! ## The flags of an outcome, with a value or with a trap alike -/

/-- The flags that a value comes with or that a trap sets. -/
def FpResult.flags : FpResult → Flags
  | .value _ f => f
  | .trap f => f

@[simp] theorem flags_value (res : Quad) (f : Flags) : (FpResult.value res f).flags = f := rfl
@[simp] theorem flags_trap (f : Flags) : (FpResult.trap f).flags = f := rfl
@[simp] theorem flags_deliver (m : Bool) (res : Quad) (f : Flags) : (deliver m res f).flags = f := by
  cases m <;> rfl

theorem deliver_eq_value {m : Bool} {q res : Quad} {g f : Flags} :
    deliver m q g = .value res f ↔ m = true ∧ q = res ∧ g = f := by
  cases m <;> simp [deliver]

theorem deliver_eq_trap {m : Bool} {q : Quad} {g f : Flags} : deliver m q g = .trap f ↔ m = false ∧ g = f := by
  cases m <;> simp [deliver]

theorem deliver_or (a b : Bool) (q : Quad) (f : Flags) :
    deliver (a || b) q f = if a = true ∨ b = true then .value q f else .trap f := by
  cases a <;> cases b <;> rfl

section Outcome

variable {p : NumRules} {x y z : Quad} {rm : RM} {c : Ctl} {r : FpResult}

theorem Rounds.stage1_flags {t : TrapRule} {V : ℤ} {de pe : Bool} (h : Rounds t V rm c de pe r) :
    r.flags.ie = false ∧ r.flags.de = de := by
  cases h <;> simp

/-- IE is signalled by an SNaN and by an invalid combination without a NaN (R108, R109). -/
theorem Computes.ie_iff (h : Computes p x y z rm c r) :
    r.flags.ie = true ↔ SomeSnan x y z ∨ (NoNan x y z ∧ InvalidTerms x y z) := by
  have hnone : ∀ {g : Flags}, g.ie = false → NoNan x y z → ¬ InvalidTerms x y z →
      (g.ie = true ↔ SomeSnan x y z ∨ (NoNan x y z ∧ InvalidTerms x y z)) := fun hg hn hv =>
    iff_of_false (by simp [hg]) (not_or.2 ⟨fun hs => not_noNan_of_someSnan hs hn, fun hi => hv hi.2⟩)
  cases h with
  | quietNan hn hs => exact iff_of_false (by simp) (not_or.2 ⟨hs, fun hi => hn hi.1⟩)
  | signalling hs => exact iff_of_true (by simp) (.inl hs)
  | invalid hn hv => exact iff_of_true (by simp) (.inr ⟨hn, hv⟩)
  | denormalTrap hn hv => exact hnone (by simp) hn hv
  | infiniteProduct hp => exact hnone (by simp) hp.noNan hp.valid
  | infiniteSubtrahend hp => exact hnone (by simp) hp.noNan hp.valid
  | zero hp => exact hnone (by simp) hp.noNan hp.valid
  | rounded hp _ _ hr => exact hnone hr.stage1_flags.1 hp.noNan hp.valid

/-- DE is signalled by `de_rule` where no NaN and no invalid combination came first (R106, R111). -/
theorem Computes.de_iff (h : Computes p x y z rm c r) :
    r.flags.de = true ↔ signalsDe p.de x y z = true ∧ NoNan x y z ∧ ¬ InvalidTerms x y z := by
  have hpass : ∀ {g : Flags}, g.de = signalsDe p.de x y z → NoNan x y z → ¬ InvalidTerms x y z →
      (g.de = true ↔ signalsDe p.de x y z = true ∧ NoNan x y z ∧ ¬ InvalidTerms x y z) := fun hg hn hv => by
    rw [hg, and_iff_left ⟨hn, hv⟩]
  cases h with
  | quietNan hn => exact iff_of_false (by simp) fun hd => hn hd.2.1
  | signalling hs => exact iff_of_false (by simp) fun hd => not_noNan_of_someSnan hs hd.2.1
  | invalid hn hv => exact iff_of_false (by simp) fun hd => hd.2.2 hv
  | denormalTrap hn hv hd => exact hpass hd.symm hn hv
  | infiniteProduct hp => exact hpass rfl hp.noNan hp.valid
  | infiniteSubtrahend hp => exact hpass rfl hp.noNan hp.valid
  | zero hp => exact hpass rfl hp.noNan hp.valid
  | rounded hp _ _ hr => exact hpass hr.stage1_flags.2 hp.noNan hp.valid

end Outcome

/-! ## DAZ and denormal operands (R107, R111) -/

section Denormals

variable {x y z : Quad}

theorem signalsDe_of_not_denormal (d : DeRule) (hx : isDenormal x = false) (hy : isDenormal y = false)
    (hz : isDenormal z = false) : signalsDe d x y z = false := by
  simp [signalsDe, hx, hy, hz]

/-- After DAZ nothing signals DE. -/
theorem signalsDe_afterDaz_true (d : DeRule) : signalsDe d (afterDaz true x) (afterDaz true y) (afterDaz true z) = false :=
  signalsDe_of_not_denormal d isDenormal_afterDaz_true isDenormal_afterDaz_true isDenormal_afterDaz_true

theorem signalsDe_anyDenormal : signalsDe .anyDenormal x y z = true ↔
    isDenormal x = true ∨ isDenormal y = true ∨ isDenormal z = true := by
  simp [signalsDe, or_assoc]

@[simp] theorem noNan_afterDaz {daz : Bool} : NoNan (afterDaz daz x) (afterDaz daz y) (afterDaz daz z) ↔ NoNan x y z := by
  simp [NoNan]

@[simp] theorem someSnan_afterDaz {daz : Bool} :
    SomeSnan (afterDaz daz x) (afterDaz daz y) (afterDaz daz z) ↔ SomeSnan x y z := by
  simp [SomeSnan]

theorem afterDaz_true (u : Quad) : afterDaz true u = if isDenormal u then u &&& 0x8000000000000000#64 else u := by
  simp [afterDaz]

end Denormals

/-- After DAZ the stages do not look at it again. -/
theorem fnmsubCore_any_daz {p : NumRules} {x y z : Quad} {rm : RM} {c : Ctl} {daz : Bool} :
    fnmsubCore p x y z rm { c with daz := daz }.effective = fnmsubCore p x y z rm c.effective := by
  cases h : c.sae <;> simp only [Ctl.effective, h] <;> rfl

/-- Settles O17: the replaced operands are no denormals, so nothing signals DE. -/
theorem dazReplacesDenormals : Obligations.DazReplacesDenormals := by
  intro p x y z rm c hdaz
  refine ⟨?_, fun res f h => ?_, fun ht f h => ?_⟩
  · rw [fnmsub64_eq, fnmsub64_eq, hdaz]
    simp only [afterDaz_false, afterDaz_true]
    exact congrArg _ fnmsubCore_any_daz.symm
  · have hde := (fnmsub64_value h).de_iff
    rw [hdaz, signalsDe_afterDaz_true] at hde
    simpa using hde
  · have hde := (fnmsub64_trap ht h).de_iff
    rw [hdaz, signalsDe_afterDaz_true] at hde
    simpa using hde

/-! ## NaN operands and invalid combinations (R108, R109) -/

section Stages

variable {p : NumRules} {x y z : Quad} {rm : RM} {c : Ctl}

theorem fnmsubCore_of_nan (h : ¬ NoNan x y z) : fnmsubCore p x y z rm c = nanStage p.nan x y z c :=
  if_pos (not_noNan.2 h)

theorem fnmsubCore_of_invalid (hn : NoNan x y z) (hv : InvalidTerms x y z) :
    fnmsubCore p x y z rm c = deliver c.im qnanIndef { ie := true } := by
  rw [fnmsubCore, if_neg (mt not_noNan.1 (not_not.2 hn)), if_pos (isInvalid_eq_true.2 hv)]

theorem fnmsubCore_of_deTrap (hn : NoNan x y z) (hv : ¬ InvalidTerms x y z) (hd : signalsDe p.de x y z = true)
    (hm : c.dm = false) : fnmsubCore p x y z rm c = .trap { de := true } := by
  rw [fnmsubCore, if_neg (mt not_noNan.1 (not_not.2 hn)), if_neg (mt isInvalid_eq_true.1 hv)]
  simp [numberStage, hd, hm]

/-- The first NaN is the first NaN before DAZ. -/
theorem chosenNan_afterDaz {daz : Bool} (h : ¬ NoNan x y z) :
    chosenNan .firstOperand (afterDaz daz x) (afterDaz daz y) (afterDaz daz z) =
      if isNan x then quiet x else if isNan y then quiet y else quiet z := by
  simp only [chosenNan, isNan_afterDaz]
  split
  · rename_i hx
    rw [afterDaz_of_isNan hx]
  split
  · rename_i hy
    rw [afterDaz_of_isNan hy]
  · rename_i hx hy
    have hz : isNan z = true := by
      rw [← Bool.not_eq_false]
      exact fun hz => h ⟨by simpa using hx, by simpa using hy, hz⟩
    rw [afterDaz_of_isNan hz]

end Stages

/-- Settles O18: the NaN stage comes first. -/
theorem nanOperandReturned : Obligations.NanOperandReturned := by
  intro p x y z rm c hfirst ht hnan
  have hn : ¬ NoNan x y z := by
    rintro ⟨hx, hy, hz⟩
    simp [hx, hy, hz] at hnan
  rw [fnmsub64_eq_core ht, fnmsubCore_of_nan (mt noNan_afterDaz.1 hn), hfirst, nanStage, chosenNan_afterDaz hn,
    isSnan_afterDaz, isSnan_afterDaz, isSnan_afterDaz]
  refine ⟨fun ⟨hx, hy, hz⟩ => by simp [hx, hy, hz], fun hs => ?_⟩
  rw [if_pos (someSnan_iff.2 hs), effective_im, deliver_or]

/-- Settles O19: IE by the stage that signals it, and the invalid combinations' stage in full. -/
theorem invalidCombination : Obligations.InvalidCombination := by
  intro p x y z rm c
  have hie : ∀ {r}, Computes p (afterDaz c.daz x) (afterDaz c.daz y) (afterDaz c.daz z) rm c.effective r →
      (r.flags.ie = true ↔ SignalsIe c.daz x y z) := fun hc => by
    rw [hc.ie_iff, noNan_afterDaz, someSnan_afterDaz]
    rfl
  refine ⟨fun res f h => hie (fnmsub64_value h), fun ht => ⟨fun f h => hie (fnmsub64_trap ht h), fun hx hy hz hv => ?_⟩⟩
  rw [fnmsub64_eq_core ht, fnmsubCore_of_invalid (noNan_afterDaz.2 ⟨hx, hy, hz⟩) hv, effective_im, deliver_or, qnanIndef]

/-- Settles O20: DE at its place in the order of R106. -/
theorem denormalOperandSignals : Obligations.DenormalOperandSignals := by
  intro p x y z rm c hdaz hde
  have hiff : ∀ {r}, Computes p (afterDaz c.daz x) (afterDaz c.daz y) (afterDaz c.daz z) rm c.effective r →
      (r.flags.de = true ↔ (isDenormal x = true ∨ isDenormal y = true ∨ isDenormal z = true) ∧
        isNan x = false ∧ isNan y = false ∧ isNan z = false ∧ ¬ InvalidTerms x y z) := fun hc => by
    rw [hc.de_iff, hde, signalsDe_anyDenormal, noNan_afterDaz, hdaz, NoNan]
    simp only [afterDaz_false, and_assoc]
  refine ⟨fun res f h => hiff (fnmsub64_value h), fun ht f h => hiff (fnmsub64_trap ht h),
    fun ht ⟨hd, hx, hy, hz, hv⟩ hdm hsae => ?_⟩
  have hsignals : signalsDe p.de x y z = true := by
    rw [hde]
    exact signalsDe_anyDenormal.2 hd
  rw [fnmsub64_eq_core ht, hdaz]
  simp only [afterDaz_false]
  exact fnmsubCore_of_deTrap ⟨hx, hy, hz⟩ hv hsignals (by simp [hdm, hsae])

/-! ## Masks (R117) -/

/-- The flags include an exception that the masks as they act do not mask. -/
def unmasked (c : Ctl) (f : Flags) : Prop :=
  (f.ie = true ∧ c.im = false) ∨ (f.de = true ∧ c.dm = false) ∨ (f.oe = true ∧ c.om = false) ∨
    (f.ue = true ∧ c.um = false) ∨ (f.pe = true ∧ c.pm = false)

/-- A value comes with masked exceptions alone, a trap with an unmasked one. -/
def MaskedOrTrap (c : Ctl) : FpResult → Prop
  | .value _ f => ¬ unmasked c f
  | .trap f => unmasked c f

section Masked

variable {p : NumRules} {x y z : Quad} {rm : RM} {c : Ctl} {r : FpResult}

theorem maskedOrTrap_deliver {m : Bool} {res : Quad} {f : Flags} (h : m = false ↔ unmasked c f) :
    MaskedOrTrap c (deliver m res f) := by
  cases m with
  | true => exact mt h.2 (by decide)
  | false => exact h.1 rfl

/-- OE and UE in a response stand for an overflow and a tiny result. -/
theorem Response.causes {V : ℤ} {ftz oe ue pe : Bool} {res : Quad} (h : Response V rm ftz res oe ue pe) :
    (oe = true ↔ overflows (rounded53 V rm) = true) ∧ (ue = true → isTiny (rounded53 V rm) = true) := by
  cases h with
  | overflow hover => exact ⟨iff_of_true rfl hover, fun h => nomatch h⟩
  | flush htiny => exact ⟨by simp [not_overflows_of_isTiny htiny], fun _ => htiny⟩
  | denormal htiny => exact ⟨by simp [not_overflows_of_isTiny htiny], fun _ => htiny⟩
  | normal hover htiny => exact ⟨by simp [hover], fun h => nomatch h⟩

theorem Rounds.maskedOrTrap {t : TrapRule} {V : ℤ} {de pe : Bool} (h : Rounds t V rm c de pe r)
    (hde : de = true → c.dm = true) : MaskedOrTrap c r := by
  cases h with
  | overflowTrap hover hom => exact .inr (.inr (.inl ⟨rfl, hom⟩))
  | tinyTrap htiny hum => exact .inr (.inr (.inr (.inl ⟨rfl, hum⟩)))
  | response hr hom hum =>
    obtain ⟨hoe, hue⟩ := hr.causes
    refine maskedOrTrap_deliver ⟨fun hm => ?_, fun hu => ?_⟩
    · obtain ⟨hpm, hin⟩ : c.pm = false ∧ _ = true := by simpa using hm
      exact .inr (.inr (.inr (.inr ⟨hin, hpm⟩)))
    · obtain ⟨⟨⟩, -⟩ | ⟨h, hm⟩ | ⟨h, hm⟩ | ⟨h, hm⟩ | ⟨h, hm⟩ := hu
      · exact absurd (hm.symm.trans (hde h)) Bool.false_ne_true
      · exact absurd (hm.symm.trans (hom (hoe.1 h))) Bool.false_ne_true
      · exact absurd (hm.symm.trans (hum (hue h))) Bool.false_ne_true
      · simpa [hm] using h

theorem Computes.maskedOrTrap (h : Computes p x y z rm c r) : MaskedOrTrap c r := by
  have hde : ∀ {res}, Proceeds p x y z c → MaskedOrTrap c (.value res { de := signalsDe p.de x y z }) :=
    fun hp hu => by simp [unmasked] at hu; exact absurd (hu.2.symm.trans (hp.masked hu.1)) Bool.false_ne_true
  cases h with
  | quietNan => simp [MaskedOrTrap, unmasked]
  | signalling => exact maskedOrTrap_deliver (by simp [unmasked])
  | invalid => exact maskedOrTrap_deliver (by simp [unmasked])
  | denormalTrap _ _ _ hm => exact .inr (.inl ⟨rfl, hm⟩)
  | infiniteProduct hp => exact hde hp
  | infiniteSubtrahend hp => exact hde hp
  | zero hp => exact hde hp
  | rounded hp _ _ hr => exact hr.maskedOrTrap hp.masked

end Masked

/-- Settles O29: each stage delivers or traps by the masks of what it signals. -/
theorem trapIffUnmasked : Obligations.TrapIffUnmasked := by
  intro p x y z rm c hsae ht
  refine ⟨fun res f h => ?_, fun f h => ?_⟩
  · simpa [MaskedOrTrap, unmasked, hsae] using (fnmsub64_value h).maskedOrTrap
  · simpa [MaskedOrTrap, unmasked, hsae] using (fnmsub64_trap ht h).maskedOrTrap

/-! ## The patterns of the results written out -/

theorem signedInf_eq (s : Bool) : signedInf s = if s then 0xFFF0000000000000#64 else 0x7FF0000000000000#64 := by
  cases s <;> rfl

theorem signedZero_eq (s : Bool) : signedZero s = if s then 0x8000000000000000#64 else 0#64 := by
  cases s <;> rfl

/-- The infinity of the opposite sign. -/
theorem signedInf_subtrahendSign {z : Quad} (h : isInf z = true) :
    signedInf (subtrahendSign z) = z ^^^ 0x8000000000000000#64 := by
  obtain ⟨he, hf⟩ := isInf_iff.1 h
  have hz : z = signedInf (signBit z) := by rw [signedInf, ← he, ← hf, assemble_fields]
  rw [subtrahendSign]
  conv => rhs; rw [hz]
  cases signBit z <;> rfl

/-! ## Infinite operands (R110) -/

/-- Settles O21: the two stages of infinite operands; the others need a NaN, an invalid combination or finite operands. -/
theorem infiniteOperands : Obligations.InfiniteOperands := by
  intro p x y z rm c res f hdaz hx hy hz hv h
  have hc := fnmsub64_value h
  simp only [hdaz, afterDaz_false] at hc
  have hn : NoNan x y z := ⟨hx, hy, hz⟩
  generalize hr : FpResult.value res f = r at hc
  cases hc with
  | quietNan hn' => exact absurd hn hn'
  | signalling hs => exact absurd hn (not_noNan_of_someSnan hs)
  | invalid _ hv' => exact absurd hv' hv
  | denormalTrap => cases hr
  | infiniteProduct _ hinf =>
    cases hr
    refine ⟨fun _ => ⟨?_, rfl, rfl⟩, fun hx' hy' => by simp [hx', hy'] at hinf⟩
    rw [signedInf_eq, productSign, signBit, signBit]
    cases x.getLsbD 63 ^^ y.getLsbD 63 <;> rfl
  | infiniteSubtrahend _ hx' hy' hz' =>
    cases hr
    refine ⟨fun hinf => by simp [hx', hy'] at hinf, fun _ _ _ => ⟨signedInf_subtrahendSign hz', rfl, rfl⟩⟩
  | zero _ hf =>
    refine ⟨fun hinf => ?_, fun _ _ hinf => ?_⟩ <;>
      simp [not_inf_of_finite hf.1, not_inf_of_finite hf.2.1, not_inf_of_finite hf.2.2] at hinf
  | rounded _ hf =>
    refine ⟨fun hinf => ?_, fun _ _ hinf => ?_⟩ <;>
      simp [not_inf_of_finite hf.1, not_inf_of_finite hf.2.1, not_inf_of_finite hf.2.2] at hinf

/-! ## The multiplicands exchanged (R101) -/

section Exchange

variable (x y z : Quad) (rm : RM)

theorem productSign_comm : productSign x y = productSign y x := by
  rw [productSign, productSign, Bool.xor_comm]

theorem exactScaled_comm : exactScaled x y z = exactScaled y x z := by
  rw [exactScaled, exactScaled, mul_comm (scaledVal x)]

theorem isInvalid_comm : isInvalid x y z = isInvalid y x z := by
  simp only [isInvalid, productSign_comm x y, Bool.or_comm (isInf x) (isInf y), Bool.and_comm (isInf x) (isZero y),
    Bool.and_comm (isZero x) (isInf y)]
  rw [Bool.or_comm (isZero y && isInf x)]

theorem signalsDe_comm : signalsDe .anyDenormal x y z = signalsDe .anyDenormal y x z := by
  simp only [signalsDe, Bool.or_comm (isDenormal x) (isDenormal y)]

theorem exactZero_comm : exactZero x y z rm = exactZero y x z rm := by
  simp only [exactZero, productSign_comm x y, Bool.or_comm (isZero x) (isZero y)]

variable {x y}

theorem chosenNan_comm (h : ¬(isNan x = true ∧ isNan y = true)) :
    chosenNan .firstOperand x y z = chosenNan .firstOperand y x z := by
  simp only [chosenNan]
  split_ifs with hx hy
  · exact absurd ⟨hx, hy⟩ h
  all_goals rfl

theorem fnmsubCore_comm (c : Ctl) (h : ¬(isNan x = true ∧ isNan y = true)) :
    fnmsubCore {} x y z rm c = fnmsubCore {} y x z rm c := by
  simp only [fnmsubCore, nanStage, numberStage, isInvalid_comm x y, signalsDe_comm x y, exactScaled_comm x y,
    exactZero_comm x y, productSign_comm x y, chosenNan_comm z h, Bool.or_comm (isNan x) (isNan y),
    Bool.or_comm (isSnan x) (isSnan y), Bool.or_comm (isInf x) (isInf y)]
  rfl

end Exchange

/-- Settles O32: but for the NaN that is chosen, each stage is symmetric in the multiplicands. -/
theorem multiplicandsCommute : Obligations.MultiplicandsCommute := by
  intro x y z rm c h
  rw [fnmsub64_eq_core (by decide), fnmsub64_eq_core (by decide)]
  exact fnmsubCore_comm _ _ _ (by rwa [isNan_afterDaz, isNan_afterDaz])

/-! ## Finite operands -/

section Finite

variable {p : NumRules} {x y z res : Quad} {rm : RM} {c : Ctl} {f : Flags} {r : FpResult}

theorem exactValue_eq_zero : exactValue x y z = 0 ↔ exactScaled x y z = 0 := by
  rw [exactValue_eq_ofFixed, ofFixed_eq_zero]

/-- With finite operands there are three outcomes: a trap on DE, an exact zero, and a rounding. -/
theorem Computes.finite (hf : AllFinite x y z) (h : Computes p x y z rm c r) :
    (signalsDe p.de x y z = true ∧ c.dm = false ∧ r = .trap { de := true }) ∨
    (exactScaled x y z = 0 ∧ r = .value (exactZero x y z rm) { de := signalsDe p.de x y z }) ∨
    (exactScaled x y z ≠ 0 ∧
      Rounds p.trap (exactScaled x y z) rm c (signalsDe p.de x y z) (Config.freeTrapPe x y z rm) r) := by
  obtain ⟨hx, hy, hz⟩ := hf
  have hn : NoNan x y z := ⟨not_nan_of_finite hx, not_nan_of_finite hy, not_nan_of_finite hz⟩
  cases h with
  | quietNan hn' => exact absurd hn hn'
  | signalling hs => exact absurd hn (not_noNan_of_someSnan hs)
  | invalid _ hv => simp [InvalidTerms, not_inf_of_finite hx, not_inf_of_finite hy] at hv
  | denormalTrap _ _ hd hm => exact .inl ⟨hd, hm, rfl⟩
  | infiniteProduct _ hi => simp [not_inf_of_finite hx, not_inf_of_finite hy] at hi
  | infiniteSubtrahend _ _ _ hi => simp [not_inf_of_finite hz] at hi
  | zero _ _ h0 => exact .inr (.inl ⟨h0, rfl⟩)
  | rounded _ _ h0 hr => exact .inr (.inr ⟨h0, hr⟩)

/-- A value from finite operands: the exact zero, or the response to a non-zero exact value. -/
theorem fnmsub64_value_finite (hdaz : c.daz = false) (hf : AllFinite x y z) (h : fnmsub64 p x y z rm c = .value res f) :
    (exactScaled x y z = 0 ∧ res = exactZero x y z rm ∧ f = { de := signalsDe p.de x y z }) ∨
    (exactScaled x y z ≠ 0 ∧ ∃ oe ue pe, Response (exactScaled x y z) rm c.ftz res oe ue pe ∧
      f = { de := signalsDe p.de x y z, oe := oe, ue := ue, pe := pe }) := by
  have hc := fnmsub64_value h
  simp only [hdaz, afterDaz_false] at hc
  obtain ⟨-, -, hr⟩ | ⟨h0, hr⟩ | ⟨h0, hr⟩ := hc.finite hf
  · cases hr
  · cases hr
    exact .inl ⟨h0, rfl, rfl⟩
  · generalize hv : FpResult.value res f = r at hr
    cases hr with
    | overflowTrap => cases hv
    | tinyTrap => cases hv
    | response hresp =>
      obtain ⟨-, rfl, rfl⟩ := deliver_eq_value.1 hv.symm
      rw [effective_ftz] at hresp
      exact .inr ⟨h0, _, _, _, hresp, rfl⟩

/-- A trap, or any outcome, from finite operands where `fault_flags` leaves the flags of a trap as they are. -/
theorem fnmsub64_finite (hdaz : c.daz = false) (hf : AllFinite x y z) (ht : p.trap ≠ .anyFlags) :
    (DeTraps p x y z c ∧ fnmsub64 p x y z rm c = .trap { de := true }) ∨
    (exactScaled x y z = 0 ∧ fnmsub64 p x y z rm c = .value (exactZero x y z rm) { de := signalsDe p.de x y z }) ∨
    (exactScaled x y z ≠ 0 ∧ Rounds p.trap (exactScaled x y z) rm c.effective (signalsDe p.de x y z)
      (Config.freeTrapPe x y z rm) (fnmsub64 p x y z rm c)) := by
  have hc := fnmsub64_computes (x := x) (y := y) (z := z) (rm := rm) (c := c) ht
  simp only [hdaz, afterDaz_false] at hc
  refine (hc.finite hf).imp_left fun ⟨hd, hm, hr⟩ => ⟨⟨hd, ?_⟩, hr⟩
  simpa using hm

end Finite

/-- The zero of R112, written out. -/
theorem exactZero_eq (x y z : Quad) (rm : RM) : exactZero x y z rm =
    if (isZero x = true ∨ isZero y = true) ∧ isZero z = true ∧ (!(x.getLsbD 63 ^^ y.getLsbD 63)) = !z.getLsbD 63 then
      (if x.getLsbD 63 ^^ y.getLsbD 63 then 0#64 else 0x8000000000000000#64)
    else if rm = .rd then 0x8000000000000000#64 else 0#64 := by
  have hsign : ∀ b : Bool, signedZero (!b) = if b then 0#64 else 0x8000000000000000#64 := by decide
  simp only [exactZero, productSign, subtrahendSign, signBit, hsign, signedZero_eq, Bool.and_eq_true, Bool.or_eq_true,
    beq_iff_eq, and_assoc]

/-- Settles O22: the stage of an exact zero. -/
theorem exactZeroResult : Obligations.ExactZeroResult := by
  intro p x y z rm c res f hdaz hx hy hz h0 h
  obtain ⟨-, rfl, rfl⟩ | ⟨hne, -⟩ := fnmsub64_value_finite hdaz ⟨hx, hy, hz⟩ h
  · exact ⟨exactZero_eq x y z rm, rfl, rfl, rfl, rfl⟩
  · exact absurd (exactValue_eq_zero.1 h0) hne

/-! ## The response to an exact value: three cases -/

/-- `res` is the finite pattern of `V` rounded to a multiple of `u`, where the finite patterns around `V` are multiples. -/
structure RoundedTo (V : ℤ) (rm : RM) (u B : ℕ) (res : Quad) : Prop where
  grid : Grid V u B
  finite : isFinite res = true
  value : fixedVal res = roundTo V u rm
  even : rint V.natAbs u (decide (V < 0)) rm % 2 = 0 → res.getLsbD 0 = false

theorem Grid.roundedTo {V : ℤ} {rm : RM} {u B : ℕ} {res : Quad} (g : Grid V u B)
    (h : Encodes res (decide (V < 0)) (rint V.natAbs u (decide (V < 0)) rm) u) : RoundedTo V rm u B res :=
  ⟨g, h.finite, h.value, h.even⟩

section Cases

variable {V : ℤ} {rm : RM}

/-- A tiny result is rounded to at most the smallest normal number. -/
theorem roundDenorm_le (hm : 2 ^ 52 ≤ V.natAbs) (h : isTiny (rounded53 V rm) = true) :
    rint V.natAbs denormUnit (decide (V < 0)) rm ≤ 2 ^ 52 := by
  have hlt := ((isTiny_iff hm).1 h).lt
  rw [show (1178 : ℕ) = 52 + 1126 from rfl, pow_add, ← denormUnit_eq] at hlt
  exact rint_le (grid_denormUnit V).pos hlt.le

/-- Without overflow and tininess the result is the exact value rounded to 53 bits (R113). -/
theorem roundedTo_normal (hm : 2 ^ 52 ≤ V.natAbs) (hover : overflows (rounded53 V rm) = false)
    (htiny : isTiny (rounded53 V rm) = false) : RoundedTo V rm (ulp53 V.natAbs) (2 ^ 52 * ulp53 V.natAbs)
      (encodeNormal (decide (V < 0)) (rounded53 V rm)) := by
  have hhi := Nat.not_le.1 (mt (overflows_iff_le (rm := rm) hm).2 (by simp [hover]))
  exact (grid_ulp53 hm).roundedTo (encodeNormal_rounded53 hm (isTiny_eq_false.1 htiny) hhi)

/-- A tiny one without FTZ is the exact value rounded to the denormal unit (R115). -/
theorem roundedTo_denormal (hm : 2 ^ 52 ≤ V.natAbs) (htiny : isTiny (rounded53 V rm) = true) :
    RoundedTo V rm denormUnit 0 (encodeDenorm (decide (V < 0)) (roundDenorm V.natAbs (decide (V < 0)) rm)) :=
  (grid_denormUnit V).roundedTo (encodeDenorm_encodes _ (roundDenorm_le hm htiny))

/-- A zero is the exact value 0 rounded. -/
theorem roundedTo_zero (s : Bool) : RoundedTo 0 rm denormUnit 0 (signedZero s) where
  grid := grid_denormUnit 0
  finite := isFinite_signedZero s
  value := by rw [fixedVal_signedZero, eq_comm, roundTo_eq_iff, Int.natAbs_zero, Nat.zero_mod]
  even _ := bit0_assemble rfl

end Cases

/-! ## Overflow and tininess of the operation's exact value -/

section ExactBounds

variable {x y z : Quad} {rm : RM}

theorem exactValue_overflowsAt (h : exactScaled x y z ≠ 0) :
    OverflowsAt rm (exactValue x y z) ↔ overflows (rounded53 (exactScaled x y z) rm) = true := by
  rw [exactValue_eq_ofFixed, overflowsAt_iff, overflows_iff (le_natAbs_exactScaled h)]

theorem exactValue_tinyAt (h : exactScaled x y z ≠ 0) :
    TinyAt rm (exactValue x y z) ↔ isTiny (rounded53 (exactScaled x y z) rm) = true := by
  rw [exactValue_eq_ofFixed, tinyAt_iff, isTiny_iff (le_natAbs_exactScaled h), and_iff_right h]

theorem not_tinyAt_of_eq_zero (h : exactScaled x y z = 0) : ¬ TinyAt rm (exactValue x y z) :=
  fun ht => ht.1 (exactValue_eq_zero.2 h)

theorem not_overflowsAt_of_eq_zero (h : exactScaled x y z = 0) : ¬ OverflowsAt rm (exactValue x y z) := by
  rw [exactValue_eq_ofFixed, overflowsAt_iff, not_not, h]
  have hzero : RoundsBelow 3224 0 false rm := by
    by_contra hn
    exact Nat.not_lt_zero _ (lt_of_not_roundsBelow (by decide) hn)
  exact hzero

theorem exactValue_pos : 0 < exactValue x y z ↔ 0 < exactScaled x y z := by
  rw [exactValue_eq_ofFixed, ofFixed_pos]

theorem exactValue_neg : exactValue x y z < 0 ↔ exactScaled x y z < 0 := by
  rw [exactValue_eq_ofFixed, ofFixed_neg_iff]

/-- The multiples of 2^-1074 are those of R115's unit. -/
theorem exists_exactValue_eq_iff : (∃ n : ℤ, exactValue x y z = n / 2 ^ 1074) ↔
    (exactScaled x y z).natAbs % denormUnit = 0 := by
  have hunit : ∀ n : ℤ, (n : ℚ) / 2 ^ 1074 = ofFixed ((denormUnit : ℤ) * n) := fun n => by
    rw [ofFixed, denormUnit_eq, show (2200 : ℕ) = 1126 + 1074 from rfl, pow_add, Int.cast_mul, Int.cast_natCast, Nat.cast_pow,
      Nat.cast_ofNat, mul_div_mul_left _ _ (pow_ne_zero _ two_ne_zero)]
  rw [← Nat.dvd_iff_mod_eq_zero, ← Int.natCast_dvd]
  simp only [exactValue_eq_ofFixed, hunit, ofFixed_inj]
  rfl

end ExactBounds

/-! ## Results against the exact value -/

section Results

variable {p : NumRules} {x y z res w : Quad} {rm : RM} {c : Ctl} {f : Flags}

theorem val_le_val {u v : Quad} : val u ≤ val v ↔ fixedVal u ≤ fixedVal v := by
  rw [val_eq_ofFixed, val_eq_ofFixed, ofFixed_le]

theorem val_le_exactValue : val w ≤ exactValue x y z ↔ fixedVal w ≤ exactScaled x y z := by
  rw [val_eq_ofFixed, exactValue_eq_ofFixed, ofFixed_le]

theorem exactValue_le_val : exactValue x y z ≤ val w ↔ exactScaled x y z ≤ fixedVal w := by
  rw [val_eq_ofFixed, exactValue_eq_ofFixed, ofFixed_le]

theorem val_eq_exactValue : val w = exactValue x y z ↔ fixedVal w = exactScaled x y z := by
  rw [val_eq_ofFixed, exactValue_eq_ofFixed, ofFixed_inj]

theorem abs_val (u : Quad) : |val u| = ofFixed (fixedVal u).natAbs := by
  rw [val_eq_ofFixed, ofFixed_abs]

theorem abs_exactValue : |exactValue x y z| = ofFixed (exactScaled x y z).natAbs := by
  rw [exactValue_eq_ofFixed, ofFixed_abs]

/-- The distance of a pattern from the exact value. -/
theorem abs_val_sub : |val w - exactValue x y z| = ofFixed (fixedVal w - exactScaled x y z).natAbs := by
  rw [val_eq_ofFixed, exactValue_eq_ofFixed, ofFixed_sub, ofFixed_abs]

/-- A value of finite operands, by what was done to the exact value: an overflow, a flush, or a rounding between the finite
patterns around it, which is the identity on an exact zero. -/
inductive Delivered (x y z : Quad) (rm : RM) (ftz : Bool) (res : Quad) (f : Flags) : Prop
  | overflow (hover : OverflowsAt rm (exactValue x y z)) (htiny : ¬ TinyAt rm (exactValue x y z))
      (hres : res = overflowResult (decide (exactScaled x y z < 0)) rm)
      (hoe : f.oe = true) (hue : f.ue = false) (hpe : f.pe = true)
  | flush (hover : ¬ OverflowsAt rm (exactValue x y z)) (htiny : TinyAt rm (exactValue x y z)) (hftz : ftz = true)
      (hres : res = signedZero (decide (exactScaled x y z < 0)))
      (hoe : f.oe = false) (hue : f.ue = true) (hpe : f.pe = true)
  | rounded (hover : ¬ OverflowsAt rm (exactValue x y z)) {u B : ℕ} (hres : RoundedTo (exactScaled x y z) rm u B res)
      (hoe : f.oe = false) (hpe : f.pe = ((exactScaled x y z).natAbs % u != 0))
      (htiny : TinyAt rm (exactValue x y z) → ftz = false ∧ u = denormUnit ∧ f.ue = f.pe)
      (hnot : ¬ TinyAt rm (exactValue x y z) → f.ue = false)

theorem delivered_zero {de : Bool} {ftz : Bool} (h0 : exactScaled x y z = 0) :
    Delivered x y z rm ftz (exactZero x y z rm) { de := de } := by
  obtain ⟨s, hs⟩ : ∃ s, exactZero x y z rm = signedZero s := by
    rw [exactZero]
    split <;> exact ⟨_, rfl⟩
  have hres : RoundedTo (exactScaled x y z) rm denormUnit 0 (exactZero x y z rm) := by
    rw [h0, hs]
    exact roundedTo_zero s
  exact .rounded (not_overflowsAt_of_eq_zero h0) hres rfl (by simp [h0]) (fun ht => absurd ht (not_tinyAt_of_eq_zero h0))
    fun _ => rfl

theorem delivered_response {de oe ue pe ftz : Bool} (h0 : exactScaled x y z ≠ 0)
    (h : Response (exactScaled x y z) rm ftz res oe ue pe) :
    Delivered x y z rm ftz res { de := de, oe := oe, ue := ue, pe := pe } := by
  have hm := le_natAbs_exactScaled h0
  have hover := exactValue_overflowsAt (rm := rm) h0
  have htiny := exactValue_tinyAt (rm := rm) h0
  have hexclude := not_overflows_of_isTiny (r := rounded53 (exactScaled x y z) rm)
  cases h with
  | overflow h =>
    exact .overflow (hover.2 h) (fun ht => Bool.false_ne_true ((hexclude (htiny.1 ht)).symm.trans h)) rfl rfl rfl rfl
  | flush h hftz => exact .flush (by simp [hover, hexclude h]) (htiny.2 h) hftz rfl rfl rfl rfl
  | denormal h hftz =>
    exact .rounded (by simp [hover, hexclude h]) (roundedTo_denormal hm h) rfl rfl (fun _ => ⟨hftz, rfl, rfl⟩)
      fun hn => absurd (htiny.2 h) hn
  | normal h ht =>
    exact .rounded (by simp [hover, h]) (roundedTo_normal hm h ht) rfl rfl (fun hn => by simp [htiny, ht] at hn) fun _ => rfl

/-- Every value of finite operands without DAZ. -/
theorem fnmsub64_delivered (hdaz : c.daz = false) (hf : AllFinite x y z) (h : fnmsub64 p x y z rm c = .value res f) :
    Delivered x y z rm c.ftz res f := by
  obtain ⟨h0, rfl, rfl⟩ | ⟨h0, oe, ue, pe, hr, rfl⟩ := fnmsub64_value_finite hdaz hf h
  · exact delivered_zero h0
  · exact delivered_response h0 hr

end Results

/-! ## Correct rounding (R103, R104) -/

section Correct

variable {x y z res w : Quad} {rm : RM} {u B : ℕ}

/-- A finite pattern of the exact value itself is what rounding gives. -/
theorem RoundedTo.exact {V : ℤ} (h : RoundedTo V rm u B res) (hw : isFinite w = true) (hV : fixedVal w = V) :
    V.natAbs % u = 0 ∧ fixedVal res = V := by
  have hmod : V.natAbs % u = 0 := by
    obtain hd | hB := h.grid.points w hw
    · rw [hV] at hd
      exact Nat.mod_eq_zero_of_dvd (Int.natCast_dvd.1 hd)
    · rw [hV] at hB
      exact absurd h.grid.le (Nat.not_le.2 hB)
  exact ⟨hmod, h.value.trans (roundTo_eq_iff.2 hmod)⟩

theorem RoundedTo.nearest (h : RoundedTo (exactScaled x y z) .rn u B res) (hw : isFinite w = true) :
    |val res - exactValue x y z| ≤ |val w - exactValue x y z| := by
  rw [abs_val_sub, abs_val_sub, ofFixed_le, Nat.cast_le, h.value]
  exact h.grid.roundTo_rn_le hw

theorem RoundedTo.ties_even (h : RoundedTo (exactScaled x y z) .rn u B res) (hw : isFinite w = true)
    (hne : val w ≠ val res) (htie : |val w - exactValue x y z| = |val res - exactValue x y z|) :
    res.getLsbD 0 = false := by
  rw [abs_val_sub, abs_val_sub, ofFixed_inj, Nat.cast_inj, h.value] at htie
  rw [val_eq_ofFixed, val_eq_ofFixed, ne_eq, ofFixed_inj, h.value] at hne
  exact h.even (h.grid.even_of_tie hw hne htie)

/-- RD: the greatest finite number not above the exact value. -/
def GreatestBelow (x y z res : Quad) : Prop :=
  val res ≤ exactValue x y z ∧ ∀ w, isFinite w = true → val w ≤ exactValue x y z → val w ≤ val res

/-- RU: the least finite number not below the exact value. -/
def LeastAbove (x y z res : Quad) : Prop :=
  exactValue x y z ≤ val res ∧ ∀ w, isFinite w = true → exactValue x y z ≤ val w → val res ≤ val w

/-- RZ: the finite number of greatest magnitude not beyond the exact value, on its side of zero. -/
def GreatestWithin (x y z res : Quad) : Prop :=
  |val res| ≤ |exactValue x y z| ∧ 0 ≤ val res * exactValue x y z ∧
    ∀ w, isFinite w = true → |val w| ≤ |exactValue x y z| → |val w| ≤ |val res|

theorem RoundedTo.greatestBelow (h : RoundedTo (exactScaled x y z) .rd u B res) : GreatestBelow x y z res := by
  simp only [GreatestBelow, val_le_exactValue, val_le_val, h.value]
  exact ⟨(roundTo_rd h.grid.pos).1, fun w => h.grid.le_roundTo_rd⟩

theorem RoundedTo.leastAbove (h : RoundedTo (exactScaled x y z) .ru u B res) : LeastAbove x y z res := by
  simp only [LeastAbove, exactValue_le_val, val_le_val, h.value]
  exact ⟨(roundTo_ru h.grid.pos).1, fun w => h.grid.roundTo_ru_le⟩

theorem greatestWithin_iff : GreatestWithin x y z res ↔ (fixedVal res).natAbs ≤ (exactScaled x y z).natAbs ∧
    0 ≤ val res * exactValue x y z ∧ ∀ w, isFinite w = true →
      (fixedVal w).natAbs ≤ (exactScaled x y z).natAbs → (fixedVal w).natAbs ≤ (fixedVal res).natAbs := by
  simp only [GreatestWithin, abs_val, abs_exactValue, ofFixed_le, Nat.cast_le]

theorem RoundedTo.greatestWithin (h : RoundedTo (exactScaled x y z) .rz u B res) : GreatestWithin x y z res := by
  have hside : 0 ≤ val res * exactValue x y z := by
    rw [val_eq_ofFixed, exactValue_eq_ofFixed, h.value]
    exact ofFixed_mul_nonneg roundTo_mul_nonneg
  rw [greatestWithin_iff, h.value]
  exact ⟨(roundTo_rz h.grid.pos).1, hside, fun w => h.grid.natAbs_le_roundTo_rz⟩

/-! A finite overflow result is MAXF, on the exact value's side of zero (R114). -/

theorem overflow_greatestBelow (h : maxFixed < (exactScaled x y z).natAbs)
    (hf : isFinite (overflowResult (decide (exactScaled x y z < 0)) .rd) = true) :
    GreatestBelow x y z (overflowResult (decide (exactScaled x y z < 0)) .rd) := by
  by_cases hs : exactScaled x y z < 0
  · rw [decide_eq_true hs] at hf
    exact absurd hf (by rw [overflowResult, if_pos rfl, isFinite_signedInf]; decide)
  · rw [decide_eq_false hs, overflowResult, if_neg Bool.false_ne_true]
    simp only [GreatestBelow, val_le_exactValue, val_le_val, fixedVal_signedMax, signed, Bool.false_eq_true, if_false]
    refine ⟨by omega, fun w hw _ => ?_⟩
    have := natAbs_fixedVal_le hw
    omega

theorem overflow_leastAbove (h : maxFixed < (exactScaled x y z).natAbs)
    (hf : isFinite (overflowResult (decide (exactScaled x y z < 0)) .ru) = true) :
    LeastAbove x y z (overflowResult (decide (exactScaled x y z < 0)) .ru) := by
  by_cases hs : exactScaled x y z < 0
  · rw [decide_eq_true hs, overflowResult, if_pos rfl]
    simp only [LeastAbove, exactValue_le_val, val_le_val, fixedVal_signedMax, signed, if_true]
    refine ⟨by omega, fun w hw _ => ?_⟩
    have := natAbs_fixedVal_le hw
    omega
  · rw [decide_eq_false hs] at hf
    exact absurd hf (by rw [overflowResult, if_neg Bool.false_ne_true, isFinite_signedInf]; decide)

theorem overflow_greatestWithin (h : maxFixed < (exactScaled x y z).natAbs) :
    GreatestWithin x y z (overflowResult (decide (exactScaled x y z < 0)) .rz) := by
  rw [greatestWithin_iff, overflowResult, fixedVal_signedMax, natAbs_signed]
  refine ⟨h.le, ?_, fun w hw _ => natAbs_fixedVal_le hw⟩
  rw [val_eq_ofFixed, exactValue_eq_ofFixed, fixedVal_signedMax]
  refine ofFixed_mul_nonneg ?_
  conv => rhs; rhs; rw [← signed_natAbs (exactScaled x y z)]
  exact signed_mul_signed_nonneg _ _ _

end Correct

theorem lt_natAbs_exactScaled {x y z : Quad} {rm : RM} (h : OverflowsAt rm (exactValue x y z)) :
    maxFixed < (exactScaled x y z).natAbs := by
  rw [exactValue_eq_ofFixed] at h
  exact lt_natAbs_of_overflowsAt h

/-- Settles O24: a finite result in RN is rounded between the finite patterns around the exact value. -/
theorem roundsToNearestEven : Obligations.RoundsToNearestEven := by
  intro p x y z res c f hdaz hftz hx hy hz h hres
  cases fnmsub64_delivered hdaz ⟨hx, hy, hz⟩ h with
  | overflow _ _ hr =>
    rw [hr, overflowResult, isFinite_signedInf] at hres
    cases hres
  | flush _ htiny hflush => exact absurd htiny (hftz hflush)
  | rounded _ hr => exact ⟨fun w hw => hr.nearest hw, fun w hw hne htie => hr.ties_even hw hne htie⟩

/-- Settles O25: likewise in the directed modes, or MAXF on overflow. -/
theorem roundsDirected : Obligations.RoundsDirected := by
  intro p x y z res rm c f hdaz hftz hx hy hz h hres
  cases fnmsub64_delivered hdaz ⟨hx, hy, hz⟩ h with
  | overflow hover _ hr =>
    have hmax := lt_natAbs_exactScaled hover
    subst hr
    refine ⟨?_, ?_, ?_⟩ <;> rintro rfl
    · exact overflow_greatestBelow hmax hres
    · exact overflow_leastAbove hmax hres
    · exact overflow_greatestWithin hmax
  | flush _ htiny hflush => exact absurd htiny (hftz hflush)
  | rounded _ hr =>
    refine ⟨?_, ?_, ?_⟩ <;> rintro rfl
    · exact hr.greatestBelow
    · exact hr.leastAbove
    · exact hr.greatestWithin

/-! ## Overflow, underflow and precision (R114, R115, R116) -/

/-- The table of R114, for a non-zero exact value. -/
theorem overflowResult_eq {x y z : Quad} (rm : RM) (h : exactScaled x y z ≠ 0) :
    overflowResult (decide (exactScaled x y z < 0)) rm =
      match rm with
      | .rn => if 0 < exactValue x y z then 0x7FF0000000000000#64 else 0xFFF0000000000000#64
      | .rd => if 0 < exactValue x y z then 0x7FEFFFFFFFFFFFFF#64 else 0xFFF0000000000000#64
      | .ru => if 0 < exactValue x y z then 0x7FF0000000000000#64 else 0xFFEFFFFFFFFFFFFF#64
      | .rz => if 0 < exactValue x y z then 0x7FEFFFFFFFFFFFFF#64 else 0xFFEFFFFFFFFFFFFF#64 := by
  by_cases hs : exactScaled x y z < 0
  · have hpos : ¬ 0 < exactValue x y z := by rw [exactValue_pos]; omega
    simp only [decide_eq_true hs, if_neg hpos]
    cases rm <;> rfl
  · have hpos : 0 < exactValue x y z := by rw [exactValue_pos]; omega
    simp only [decide_eq_false hs, if_pos hpos]
    cases rm <;> rfl

/-- OE and UE at a trap stand for an overflow and a tiny result. -/
theorem fnmsub64_trap_causes {p : NumRules} {x y z : Quad} {rm : RM} {c : Ctl} {f : Flags} (hdaz : c.daz = false)
    (hf : AllFinite x y z) (ht : p.trap ≠ .anyFlags) (h : fnmsub64 p x y z rm c = .trap f) :
    (f.oe = true → OverflowsAt rm (exactValue x y z)) ∧ (f.ue = true → TinyAt rm (exactValue x y z)) := by
  have hcases := fnmsub64_finite (rm := rm) hdaz hf ht
  rw [h] at hcases
  obtain ⟨-, hr⟩ | ⟨-, hr⟩ | ⟨h0, hr⟩ := hcases
  · cases hr
    exact ⟨(fun hoe => nomatch hoe), fun hue => nomatch hue⟩
  · cases hr
  · rw [exactValue_overflowsAt h0, exactValue_tinyAt h0]
    generalize hv : FpResult.trap f = r at hr
    cases hr with
    | overflowTrap hover => cases hv; exact ⟨fun _ => hover, fun hue => nomatch hue⟩
    | tinyTrap htiny => cases hv; exact ⟨(fun hoe => nomatch hoe), fun _ => htiny⟩
    | response hresp =>
      obtain ⟨-, rfl⟩ := deliver_eq_trap.1 hv.symm
      exact ⟨hresp.causes.1.1, hresp.causes.2⟩

/-- Settles O26: what a value and a trap signal, by the bounds. -/
theorem overflowBoundAndResult : Obligations.OverflowBoundAndResult := by
  intro p x y z rm c hdaz hx hy hz
  have hf : AllFinite x y z := ⟨hx, hy, hz⟩
  refine ⟨fun res f h => ?_, fun ht =>
    ⟨fun f h => (fnmsub64_trap_causes hdaz hf ht h).1, fun hover hom hsae hde => ?_⟩⟩
  · cases fnmsub64_delivered hdaz hf h with
    | overflow hover _ hr hoe _ hpe =>
      have h0 : exactScaled x y z ≠ 0 := fun h0 => not_overflowsAt_of_eq_zero h0 hover
      exact ⟨iff_of_true hoe hover, fun _ => ⟨hpe, hr.trans (overflowResult_eq rm h0)⟩⟩
    | flush hover _ _ _ hoe =>
      exact ⟨iff_of_false (by simp [hoe]) hover, fun h => absurd (hoe.symm.trans h) Bool.false_ne_true⟩
    | rounded hover _ hoe =>
      exact ⟨iff_of_false (by simp [hoe]) hover, fun h => absurd (hoe.symm.trans h) Bool.false_ne_true⟩
  · obtain ⟨hd, -⟩ | ⟨h0, -⟩ | ⟨h0, hr⟩ := fnmsub64_finite (rm := rm) hdaz hf ht
    · exact absurd hd hde
    · exact absurd hover (not_overflowsAt_of_eq_zero h0)
    · rw [exactValue_overflowsAt h0] at hover
      generalize fnmsub64 p x y z rm c = r at hr
      cases hr with
      | overflowTrap => exact ⟨_, rfl, rfl⟩
      | tinyTrap htiny => exact absurd ((not_overflows_of_isTiny htiny).symm.trans hover) Bool.false_ne_true
      | response _ hmask => exact absurd (hmask hover) (by simp [hom, hsae])

/-- Settles O27: the three responses to a tiny result, and no UE without one. -/
theorem underflowAndFlush : Obligations.UnderflowAndFlush := by
  intro p x y z rm c hdaz hx hy hz
  have hf : AllFinite x y z := ⟨hx, hy, hz⟩
  refine ⟨fun htiny => ⟨fun ht hum hsae hde => ?_, fun res f h => ?_⟩, fun hnot =>
    ⟨fun res f h => ?_, fun ht f h => Bool.eq_false_iff.2 (mt (fnmsub64_trap_causes hdaz hf ht h).2 hnot)⟩⟩
  · obtain ⟨hd, -⟩ | ⟨h0, -⟩ | ⟨h0, hr⟩ := fnmsub64_finite (rm := rm) hdaz hf ht
    · exact absurd hd hde
    · exact absurd htiny (not_tinyAt_of_eq_zero h0)
    · rw [exactValue_tinyAt h0] at htiny
      generalize fnmsub64 p x y z rm c = r at hr
      cases hr with
      | overflowTrap hover => exact absurd ((not_overflows_of_isTiny htiny).symm.trans hover) Bool.false_ne_true
      | tinyTrap => exact ⟨_, rfl, rfl⟩
      | response _ _ hmask => exact absurd (hmask htiny) (by simp [hum, hsae])
  · rw [exists_exactValue_eq_iff]
    cases fnmsub64_delivered hdaz hf h with
    | overflow _ hnot => exact absurd htiny hnot
    | flush _ _ hftz hr _ hue hpe =>
      refine ⟨fun _ => ⟨hue, hpe, ?_⟩, fun h => absurd (h.symm.trans hftz) Bool.false_ne_true⟩
      simp only [hr, signedZero_eq, decide_eq_true_eq, exactValue_neg]
    | rounded _ hr _ hpe hdenormal =>
      obtain ⟨hftz, hu, hue⟩ := hdenormal htiny
      exact ⟨fun h => absurd (hftz.symm.trans h) Bool.false_ne_true,
        fun _ => ⟨by rw [hue, hpe, hu, bne_iff_ne], hue.symm⟩⟩
  · cases fnmsub64_delivered hdaz hf h with
    | overflow _ _ _ _ hue => exact hue
    | flush _ htiny => exact absurd htiny hnot
    | rounded _ _ _ _ _ hue => exact hue hnot

/-! ## Precision (R116) -/

/-- PE with finite operands. -/
theorem Delivered.pe_iff {x y z res : Quad} {rm : RM} {ftz : Bool} {f : Flags} (h : Delivered x y z rm ftz res f) :
    f.pe = true ↔ ¬(isFinite res = true ∧ val res = exactValue x y z) := by
  rw [val_eq_exactValue]
  cases h with
  | overflow hover _ _ _ _ hpe =>
    refine iff_of_true hpe fun ⟨hfinite, hval⟩ => ?_
    have hle := natAbs_fixedVal_le hfinite
    rw [hval] at hle
    exact absurd (lt_natAbs_exactScaled hover) (Nat.not_lt.2 hle)
  | flush _ htiny _ hres _ _ hpe =>
    refine iff_of_true hpe fun ⟨_, hval⟩ => htiny.1 ?_
    rw [hres, fixedVal_signedZero] at hval
    exact exactValue_eq_zero.2 hval.symm
  | rounded _ hr _ hpe =>
    rw [hpe, bne_iff_ne, and_iff_right hr.finite, hr.value, roundTo_eq_iff]

/-- Without finite operands no stage signals PE. -/
theorem Computes.pe_of_not_finite {p : NumRules} {x y z : Quad} {rm : RM} {c : Ctl} {r : FpResult}
    (h : Computes p x y z rm c r) (hf : ¬ AllFinite x y z) : r.flags.pe = false := by
  cases h with
  | quietNan => rfl
  | signalling => rw [flags_deliver]
  | invalid => rw [flags_deliver]
  | denormalTrap => rfl
  | infiniteProduct => rfl
  | infiniteSubtrahend => rfl
  | zero _ hf' => exact absurd hf' hf
  | rounded _ hf' => exact absurd hf' hf

/-- Settles O28, by what was done to the exact value. -/
theorem precisionIffInexact : Obligations.PrecisionIffInexact := by
  intro p x y z res rm c f hdaz h
  refine ⟨fun hf => (fnmsub64_delivered hdaz hf h).pe_iff, fun hf => ?_⟩
  have hc := fnmsub64_value h
  simp only [hdaz, afterDaz_false] at hc
  exact hc.pe_of_not_finite hf

/-! ## Representable exact values (R104) -/

/-- A larger exponent field is a larger magnitude. -/
theorem magnitude_lt_of_biasedExp_lt {u v : Quad} (h : biasedExp u < biasedExp v) : magnitude u < magnitude v := by
  have hu := fraction_lt u
  have hv : 2 ^ 52 * 2 ^ (biasedExp v - 1) ≤ magnitude v := by
    rw [magnitude_of_exp_ne_zero (by omega)]
    exact Nat.mul_le_mul_right _ (Nat.le_add_right _ _)
  by_cases h0 : biasedExp u = 0
  · have hone := Nat.two_pow_pos (biasedExp v - 1)
    rw [magnitude_of_exp_zero h0]
    omega
  · have hexp : 2 * 2 ^ (biasedExp u - 1) ≤ 2 ^ (biasedExp v - 1) := by
      rw [← pow_succ']
      exact Nat.pow_le_pow_right two_pos (by omega)
    have hlt : magnitude u < 2 ^ 53 * 2 ^ (biasedExp u - 1) := by
      rw [magnitude_of_exp_ne_zero h0]
      exact Nat.mul_lt_mul_of_pos_right (by omega) (Nat.two_pow_pos _)
    omega

theorem fields_of_magnitude_eq {u v : Quad} (h : magnitude u = magnitude v) :
    biasedExp u = biasedExp v ∧ fraction u = fraction v := by
  have he : biasedExp u = biasedExp v := by
    rcases Nat.lt_trichotomy (biasedExp u) (biasedExp v) with hlt | heq | hlt
    · exact absurd h (magnitude_lt_of_biasedExp_lt hlt).ne
    · exact heq
    · exact absurd h (magnitude_lt_of_biasedExp_lt hlt).ne'
  refine ⟨he, ?_⟩
  by_cases h0 : biasedExp v = 0
  · rwa [magnitude_of_exp_zero h0, magnitude_of_exp_zero (he.trans h0)] at h
  · rw [magnitude_of_exp_ne_zero h0, magnitude_of_exp_ne_zero (he.trans_ne h0), he] at h
    exact Nat.add_left_cancel (Nat.eq_of_mul_eq_mul_right (Nat.two_pow_pos _) h)

/-- A non-zero value has one pattern. -/
theorem eq_of_fixedVal_eq {u v : Quad} (h : fixedVal u = fixedVal v) (h0 : fixedVal v ≠ 0) : u = v := by
  have hmag : magnitude u = magnitude v := by
    have habs := congrArg Int.natAbs h
    rw [natAbs_fixedVal, natAbs_fixedVal] at habs
    exact Nat.eq_of_mul_eq_mul_right (pow_pos two_pos 1126) habs
  obtain ⟨he, hf⟩ := fields_of_magnitude_eq hmag
  have hs : signBit u = signBit v := by
    rw [fixedVal_eq, fixedVal_eq, hmag] at h
    rw [fixedVal_eq] at h0
    generalize magnitude v * 2 ^ 1126 = n at h h0
    cases hu : signBit u <;> cases hv : signBit v <;> simp only [hu, hv, signed, if_true, Bool.false_eq_true, if_false] at * <;>
      omega
  rw [← assemble_fields u, ← assemble_fields v, hs, he, hf]

/-- A tiny exact value is no normal number. -/
theorem isDenormal_of_tiny {w : Quad} (h0 : fixedVal w ≠ 0) (h : (fixedVal w).natAbs < 2 ^ 1178) : isDenormal w = true := by
  have hmag : magnitude w < 2 ^ 52 := by
    rw [natAbs_fixedVal, show (1178 : ℕ) = 52 + 1126 from rfl, pow_add] at h
    exact Nat.lt_of_mul_lt_mul_right h
  have he : biasedExp w = 0 := by
    by_contra hne
    rw [magnitude_of_exp_ne_zero hne] at hmag
    have hle : 2 ^ 52 * 1 ≤ (2 ^ 52 + fraction w) * 2 ^ (biasedExp w - 1) :=
      Nat.mul_le_mul (Nat.le_add_right _ _) Nat.one_le_two_pow
    omega
  refine isDenormal_iff.2 ⟨he, fun hf => h0 ?_⟩
  rw [fixedVal_eq, magnitude_of_exp_zero he, hf, Nat.zero_mul]
  cases signBit w <;> rfl

/-- Settles O23: the exact value neither overflows nor is changed by rounding, and its pattern is the only one. -/
theorem representableUnchanged : Obligations.RepresentableUnchanged := by
  intro p x y z w rm c hdaz hx hy hz hw hval hne hden hdm
  have hV : fixedVal w = exactScaled x y z := val_eq_exactValue.1 hval
  have h0 : exactScaled x y z ≠ 0 := mt exactValue_eq_zero.2 hne
  have hw0 : fixedVal w ≠ 0 := hV.trans_ne h0
  have hover : overflows (rounded53 (exactScaled x y z) rm) ≠ true := fun h => by
    have hlt := lt_natAbs_exactScaled ((exactValue_overflowsAt h0).2 h)
    rw [← hV] at hlt
    exact absurd hlt (Nat.not_lt.2 (natAbs_fixedVal_le hw))
  have htiny : isTiny (rounded53 (exactScaled x y z) rm) = true → c.um = true ∧ c.ftz = false := fun h => by
    have hlt := ((isTiny_iff (le_natAbs_exactScaled h0)).1 h).lt
    rw [← hV] at hlt
    exact hden (isDenormal_of_tiny hw0 hlt)
  have hresult : ∀ {u B res}, RoundedTo (exactScaled x y z) rm u B res →
      res = w ∧ ((exactScaled x y z).natAbs % u != 0) = false := fun hr => by
    obtain ⟨hmod, hres⟩ := hr.exact hw hV
    exact ⟨eq_of_fixedVal_eq (hres.trans hV.symm) hw0, by rw [hmod]; rfl⟩
  rw [fnmsub64_eq_value, hdaz, afterDaz_false, afterDaz_false, afterDaz_false]
  obtain ⟨-, hm, -⟩ | ⟨hz, -⟩ | ⟨-, hr⟩ := (fnmsubCore_computes p x y z rm c.effective).finite ⟨hx, hy, hz⟩
  · simp [hdm] at hm
  · exact absurd hz h0
  generalize fnmsubCore p x y z rm c.effective = r at hr
  cases hr with
  | overflowTrap h => exact absurd h hover
  | tinyTrap h hum => simp [(htiny h).1] at hum
  | response h =>
    cases h with
    | overflow h => exact absurd h hover
    | flush h hftz => simp [(htiny h).2] at hftz
    | denormal h =>
      obtain ⟨hres, hpe⟩ := hresult (roundedTo_denormal (le_natAbs_exactScaled h0) h)
      rw [hres, inexactDenorm, hpe, Bool.not_false, Bool.or_true]
      rfl
    | normal h h' =>
      obtain ⟨hres, hpe⟩ := hresult (roundedTo_normal (le_natAbs_exactScaled h0) h h')
      rw [hres, inexact53, hpe, Bool.not_false, Bool.or_true]
      rfl

/-! ## The flags at a trap (R117) -/

/-- A number of at most 53 bits, at the scale of exact values. -/
theorem exists_natAbs_eq_of_fits53 {V : ℤ} (h : Fits53 (ofFixed V)) : ∃ n a, n < 2 ^ 53 ∧ V.natAbs = n * 2 ^ a := by
  obtain ⟨n, e, hn, hV⟩ := h
  rw [Int.abs_eq_natAbs] at hn
  rw [ofFixed, div_eq_iff scale_pos.ne', mul_assoc, ← zpow_natCast, ← zpow_add₀ two_ne_zero] at hV
  obtain ⟨a, ha | ha⟩ := Int.eq_nat_or_neg (e + (2200 : ℕ))
  · rw [ha, zpow_natCast] at hV
    have hint : V = n * 2 ^ a := by exact_mod_cast hV
    exact ⟨n.natAbs, a, by omega, by rw [hint, Int.natAbs_mul, Int.natAbs_pow]; rfl⟩
  · rw [ha, zpow_neg, zpow_natCast, ← div_eq_mul_inv, eq_div_iff (pow_ne_zero _ two_ne_zero)] at hV
    have hint : V * 2 ^ a = n := by exact_mod_cast hV
    have hle : V.natAbs * 1 ≤ V.natAbs * 2 ^ a := Nat.mul_le_mul_left _ Nat.one_le_two_pow
    have habs : V.natAbs * 2 ^ a = n.natAbs := by rw [← hint, Int.natAbs_mul, Int.natAbs_pow]; rfl
    exact ⟨V.natAbs, 0, by omega, by rw [pow_zero, mul_one]⟩

/-- A number of at most 53 bits times a power of two fits. -/
theorem fits53_ofFixed {q : ℕ} (s : Bool) (j : ℕ) (hq : q < 2 ^ 53) : Fits53 (ofFixed (signed s (q * 2 ^ j))) := by
  refine ⟨signed s q, (j : ℤ) - (2200 : ℕ), ?_, ?_⟩
  · rw [Int.abs_eq_natAbs, natAbs_signed]
    exact_mod_cast hq
  · rw [ofFixed, signed_mul, zpow_sub₀ two_ne_zero, zpow_natCast, zpow_natCast, ← mul_div_assoc, Int.cast_mul,
      Int.cast_natCast, Nat.cast_pow, Nat.cast_ofNat]

/-- `inexact1` of R113 says that the exact value needs more than 53 bits. -/
theorem inexact53_iff {V : ℤ} (hm : 2 ^ 52 ≤ V.natAbs) : inexact53 V.natAbs = true ↔ ¬ Fits53 (ofFixed V) := by
  obtain ⟨hlo, hhi⟩ := ulp53_bounds hm
  rw [inexact53, bne_iff_ne, ne_eq, not_iff_not]
  refine ⟨fun h => ?_, fun h => ?_⟩
  · have hq : V.natAbs / ulp53 V.natAbs < 2 ^ 53 := (Nat.div_lt_iff_lt_mul (ulp53_pos _)).2 hhi
    have hfits := fits53_ofFixed (decide (V < 0)) (V.natAbs.log2 - 52) hq
    rwa [← ulp53, Nat.div_mul_cancel (Nat.dvd_of_mod_eq_zero h), signed_natAbs] at hfits
  · obtain ⟨n, a, hn, hV⟩ := exists_natAbs_eq_of_fits53 h
    refine Nat.mod_eq_zero_of_dvd ?_
    rw [ulp53] at hlo ⊢
    generalize V.natAbs.log2 - 52 = j at hlo ⊢
    rw [hV] at hlo ⊢
    exact two_pow_dvd_of_le hn hlo

/-- A response is determined by its exact value. -/
theorem Response.unique {V : ℤ} {rm : RM} {ftz oe ue pe oe' ue' pe' : Bool} {res res' : Quad}
    (h : Response V rm ftz res oe ue pe) (h' : Response V rm ftz res' oe' ue' pe') :
    res = res' ∧ oe = oe' ∧ ue = ue' ∧ pe = pe' := by
  have hexclude := not_overflows_of_isTiny (r := rounded53 V rm)
  cases h with
  | overflow hover => cases h' <;> simp_all
  | flush htiny hftz => cases h' <;> simp_all
  | denormal htiny hftz => cases h' <;> simp_all
  | normal hover htiny => cases h' <;> simp_all

/-- Where all that it signals is masked, the response is delivered. -/
theorem Rounds.eq_value {t : TrapRule} {V : ℤ} {rm : RM} {c : Ctl} {de pe oe ue inexact : Bool} {r : FpResult} {res : Quad}
    (h : Rounds t V rm c de pe r) (hresp : Response V rm c.ftz res oe ue inexact)
    (hom : overflows (rounded53 V rm) = true → c.om = true) (hum : isTiny (rounded53 V rm) = true → c.um = true)
    (hpm : c.pm = true) : r = .value res { de := de, oe := oe, ue := ue, pe := inexact } := by
  cases h with
  | overflowTrap hover hom' => exact absurd (hom'.symm.trans (hom hover)) Bool.false_ne_true
  | tinyTrap htiny hum' => exact absurd (hum'.symm.trans (hum htiny)) Bool.false_ne_true
  | response hresp' =>
    obtain ⟨rfl, rfl, rfl, rfl⟩ := hresp.unique hresp'
    rw [hpm, Bool.true_or]
    rfl

/-- The flags of a trap, by the stage that traps (R117), on operands after DAZ and with the masks as they act; `masked` stands
for what the operation returns with PE masked. -/
inductive TrapStage (x y z : Quad) (de : Bool) (c : Ctl) (masked : FpResult) : Flags → Prop
  | invalid (him : c.im = false) (hie : SomeSnan x y z ∨ (NoNan x y z ∧ InvalidTerms x y z)) :
      TrapStage x y z de c masked { ie := true }
  | denormal (hdm : c.dm = false) (hde : de = true) : TrapStage x y z de c masked { de := true }
  | overflow (hdm : de = true → c.dm = true) (hom : c.om = false) {pe : Bool}
      (hpe : pe = true ↔ ¬ Fits53 (exactValue x y z)) : TrapStage x y z de c masked { de := de, oe := true, pe := pe }
  | underflow (hdm : de = true → c.dm = true) (hum : c.um = false) {pe : Bool}
      (hpe : pe = true ↔ ¬ Fits53 (exactValue x y z)) : TrapStage x y z de c masked { de := de, ue := true, pe := pe }
  | precision (hdm : de = true → c.dm = true) (hpm : c.pm = false) {oe ue : Bool} (hom : oe = true → c.om = true)
      (hum : ue = true → c.um = true) {res : Quad}
      (hmasked : masked = .value res { de := de, oe := oe, ue := ue, pe := true }) :
      TrapStage x y z de c masked { de := de, oe := oe, ue := ue, pe := true }

theorem Computes.trapStage {p : NumRules} {x y z : Quad} {rm : RM} {c : Ctl} {f : Flags} (ht : p.trap = .inexact53)
    (h : Computes p x y z rm c (.trap f)) :
    TrapStage x y z (signalsDe p.de x y z) c (fnmsubCore p x y z rm { c with pm := true }) f := by
  generalize hr : FpResult.trap f = r at h
  cases h with
  | quietNan => cases hr
  | signalling hs =>
    obtain ⟨him, rfl⟩ := deliver_eq_trap.1 hr.symm
    exact .invalid him (.inl hs)
  | invalid hn hv =>
    obtain ⟨him, rfl⟩ := deliver_eq_trap.1 hr.symm
    exact .invalid him (.inr ⟨hn, hv⟩)
  | denormalTrap _ _ hd hm =>
    cases hr
    exact .denormal hm hd
  | infiniteProduct => cases hr
  | infiniteSubtrahend => cases hr
  | zero => cases hr
  | rounded hp hf h0 h =>
    have hfits := inexact53_iff (le_natAbs_exactScaled h0)
    rw [← exactValue_eq_ofFixed] at hfits
    rw [ht] at h
    cases h with
    | overflowTrap _ hom =>
      cases hr
      exact .overflow hp.masked hom hfits
    | tinyTrap _ hum =>
      cases hr
      exact .underflow hp.masked hum hfits
    | @response res _ _ _ hresp hom hum =>
      obtain ⟨hm, rfl⟩ := deliver_eq_trap.1 hr.symm
      obtain ⟨hpm, rfl⟩ : c.pm = false ∧ _ = true := by simpa using hm
      obtain ⟨hoe, hue⟩ := hresp.causes
      refine .precision hp.masked hpm (hom ∘ hoe.1) (hum ∘ hue) (res := res) ?_
      obtain ⟨hd, hdm, -⟩ | ⟨hz, -⟩ | ⟨-, h⟩ := (fnmsubCore_computes p x y z rm { c with pm := true }).finite hf
      · exact absurd (hdm.symm.trans (hp.masked hd)) Bool.false_ne_true
      · exact absurd hz h0
      · exact h.eq_value hresp hom hum rfl

theorem effective_of_not_sae {c : Ctl} (h : c.sae = false) : c.effective = c := by
  rw [Ctl.effective, h, if_neg Bool.false_ne_true]

/-- A trap has an unmasked exception, and SAE masks them all (42_vfnmsub_sd_evex.md R146). -/
theorem not_sae_of_unmasked {c : Ctl} {f : Flags} (h : unmasked c.effective f) : c.sae = false := by
  rw [← Bool.not_eq_true]
  intro hsae
  simp [unmasked, hsae] at h

/-- Settles O30: the trap by its stage, without SAE, under which nothing traps. -/
theorem trapFlagsByStage : Obligations.TrapFlagsByStage := by
  intro p x y z rm c f ht h x' y' z' de
  have hc := fnmsub64_trap (by rw [ht]; decide) h
  have hsae : c.sae = false := not_sae_of_unmasked hc.maskedOrTrap
  rw [effective_of_not_sae hsae] at hc
  cases hc.trapStage ht with
  | invalid him hie =>
    rw [someSnan_afterDaz, noNan_afterDaz] at hie
    exact .inl ⟨him, hie, rfl⟩
  | denormal hdm hde => exact .inr (.inl ⟨hdm, hde, rfl⟩)
  | overflow hdm hom hpe => exact .inr (.inr (.inl ⟨hdm, hom, _, rfl, hpe⟩))
  | underflow hdm hum hpe => exact .inr (.inr (.inr (.inl ⟨hdm, hum, _, rfl, hpe⟩)))
  | @precision hdm hpm oe ue hom hum res hmasked =>
    refine .inr (.inr (.inr (.inr ⟨hdm, hpm, rfl, rfl, rfl, hom, hum, res, ?_⟩)))
    rw [fnmsub64_eq_value, effective_of_not_sae (c := { c with pm := true }) hsae]
    exact hmasked

end Sys2Proof.Machine

/-! The family 41_vfnmsub_sd_vex.md: a VEX form in a ready state whose third operand can be read delivers what FNMSUB64
returns, and with exceptions masked FNMSUB64 returns a value. -/

namespace Sys2Proof.Machine

open Sys2Proof

/-! ## Values where nothing is unmasked (R117) -/

/-- A trap needs an unmasked exception, so where none is there is a value. -/
theorem exists_value_of_masked {c : Ctl} (h : ∀ f, ¬ unmasked c.effective f) (p : NumRules) (x y z : Quad) (rm : RM) :
    ∃ res f, fnmsub64 p x y z rm c = .value res f := by
  have hc := (fnmsubCore_computes p (afterDaz c.daz x) (afterDaz c.daz y) (afterDaz c.daz z) rm c.effective).maskedOrTrap
  cases hr : fnmsubCore p (afterDaz c.daz x) (afterDaz c.daz y) (afterDaz c.daz z) rm c.effective with
  | value res f => exact ⟨res, f, fnmsub64_eq_value.2 hr⟩
  | trap f =>
    rw [hr] at hc
    exact absurd hc (h f)

/-- The masks of R30's table that `AllMasked` sets are the ones that act. -/
theorem AllMasked.not_unmasked {s : State} (h : AllMasked s) (sae : Bool) (f : Flags) :
    ¬ unmasked (mxcsrControl s.mxcsr sae).effective f := by
  simp only [unmasked, effective_im, effective_dm, effective_om, effective_um, effective_pm, mxcsrControl, h.im, h.dm,
    h.om, h.um, h.pm, Bool.true_or, Bool.true_eq_false, and_false, or_self, not_false_eq_true]

/-! ## Delivery (R133) -/

/-- The writes that end an instruction deliver its result and leave everything else alone. -/
theorem delivers_orFlags_writeLow_setRip (s : State) (d : BitVec 5) (len : Nat) (q : Quad) (f : Flags) :
    Delivers s (((s.orFlags f).writeLow d q).setRip (s.rip + BitVec.ofNat 64 len)) d len q f where
  k := rfl
  g := rfl
  rflags := rfl
  cr0 := rfl
  cr2 := rfl
  cr4 := rfl
  xcr0 := rfl
  csBase := rfl
  fsBase := rfl
  gsBase := rfl
  cpl := rfl
  mode := rfl
  mem _ := rfl
  xlat := rfl
  devices := rfl
  debugArmed := rfl
  cfg := rfl
  low := writeLow_low _ d q
  hi := writeLow_hi _ d q
  upper := writeLow_upper _ d q
  others _ hi := readV_writeLow_ne _ q hi
  mxcsr := orFlags_flagsAdded s f
  rip := rfl

/-- What FNMSUB64 returns in the VEX form `i` with the third operand `q`: the parts of R101's table, and the rounding mode and
the controls that R30's table reads from MXCSR. -/
def vexOutcome (i : Instr) (o : VexOps) (s : State) (q : Quad) : FpResult :=
  let r := rolesOf i (s.low (vexReg o.dest)) (s.low (vexReg o.src2)) q
  fnmsub64 s.cfg.rules r.x r.y r.z (mxcsrRounding s.mxcsr) (mxcsrControl s.mxcsr false)

section Vex

variable {i : Instr} {o : VexOps} {s : State} {q : Quad}

theorem vexCompute_of_value {res : Quad} {f : Flags} (hv : vexOutcome i o s q = .value res f) :
    vexCompute (rolesOf i) o q s = complete o.length ((s.orFlags f).writeLow (vexReg o.dest) res) := by
  unfold vexOutcome at hv
  simp only [vexCompute, rm_eq_mxcsrRounding, ctl_eq_mxcsrControl, hv]

/-- A VEX form for which FNMSUB64 returns a value completes with it, masked or not. -/
theorem exec_vex_delivers {res : Quad} {f : Flags} (hi : vexOps? i = some o) (hs : VexReady s) (ho : VexOperand s o q)
    (hn : NextOk s o.length) (hv : vexOutcome i o s q = .value res f) :
    ∃ t, exec i s = .next t ∧ Delivers s t (vexReg o.dest) o.length res f := by
  refine ⟨_, ?_, delivers_orFlags_writeLow_setRip s (vexReg o.dest) o.length res f⟩
  have hnext : NextOk ((s.orFlags f).writeLow (vexReg o.dest) res) o.length := hn
  rw [exec_of_vexOps hi, execVex_ready hs ho, vexCompute_of_value hv]
  exact complete_of_ok hnext

/-- With exceptions masked a VEX form completes. -/
theorem exec_vex_of_allMasked (hi : vexOps? i = some o) (hs : VexReady s) (ho : VexOperand s o q)
    (hn : NextOk s o.length) (hm : AllMasked s) :
    ∃ res f t, vexOutcome i o s q = .value res f ∧
      exec i s = .next t ∧ Delivers s t (vexReg o.dest) o.length res f := by
  obtain ⟨res, f, hv⟩ : ∃ res f, vexOutcome i o s q = .value res f :=
    exists_value_of_masked (hm.not_unmasked false) ..
  obtain ⟨t, ht, hd⟩ := exec_vex_delivers hi hs ho hn hv
  exact ⟨res, f, t, hv, ht, hd⟩

end Vex

/-! ## The three forms (R130, R131, R132) -/

/-- Settles O33: the parts of 132 are (DEST, SRC3, SRC2). -/
theorem vfnmsub132sdVexResult : Obligations.Vfnmsub132sdVexResult := fun o _ _ hs ho hn hm =>
  exec_vex_of_allMasked (i := .vfnmsub132sdVex o) rfl hs ho hn hm

/-- Settles O34: the parts of 213 are (SRC2, DEST, SRC3). -/
theorem vfnmsub213sdVexResult : Obligations.Vfnmsub213sdVexResult := fun o _ _ hs ho hn hm =>
  exec_vex_of_allMasked (i := .vfnmsub213sdVex o) rfl hs ho hn hm

/-- Settles O35: the parts of 231 are (SRC2, SRC3, DEST). -/
theorem vfnmsub231sdVexResult : Obligations.Vfnmsub231sdVexResult := fun o _ _ hs ho hn hm =>
  exec_vex_of_allMasked (i := .vfnmsub231sdVex o) rfl hs ho hn hm

end Sys2Proof.Machine

/-! The family 42_vfnmsub_sd_evex.md: an EVEX form in a ready state delivers what FNMSUB64 returns where its mask bit is 1
and computes nothing where it is 0, and what every form that completes leaves alone. -/

namespace Sys2Proof.Machine

open Sys2Proof

/-! ## SAE (R146) -/

/-- Settles O31: an exception that traps is unmasked, and SAE leaves none unmasked. -/
theorem saeNeverTraps : Obligations.SaeNeverTraps := by
  intro p x y z rm c hsae
  refine exists_value_of_masked (fun f hu => ?_) p x y z rm
  exact Bool.false_ne_true ((not_sae_of_unmasked hu).symm.trans hsae)

/-! ## What completes, in every form (R145) -/

/-- A form that completes delivers some result with some flags. -/
theorem CompletesWith.delivers {i : Instr} {s t : State} {f : Flags} {q : Quad} (hc : CompletesWith i s t f q) :
    Delivers s t (destReg i) i.length q f := by
  rw [hc.left]
  exact delivers_orFlags_writeLow_setRip s (destReg i) i.length q f

/-- Settles O41: whatever a form delivers, and with whatever flags, the rest stays. -/
theorem frameOfCompletion : Obligations.FrameOfCompletion := by
  intro i s t h
  obtain ⟨f, q, hc⟩ := exec_next h
  have hd := hc.delivers
  exact ⟨hd.toSameElse, hd.others, hd.hi, hd.upper, hd.mxcsr.rest, hd.mxcsr.ze⟩

/-! ## The controls of an EVEX form (R143, R146) -/

/-- R85 reserves b = 1 on a memory form, so elsewhere b alone says whether embedded rounding is in force. -/
theorem embeddedRounding_of_not_reserved {o : EvexOps} (h : o.reserved = false) : embeddedRounding o = o.b := by
  cases hb : o.b with
  | false => simp [embeddedRounding, hb]
  | true =>
    cases hr : o.src3.isReg with
    | true => simp [embeddedRounding, hb, hr]
    | false => simp [EvexOps.reserved, hb, hr] at h

/-- What FNMSUB64 returns in the EVEX form `i` with the third operand `q`: the parts of R101's table, EVEX.RC under SAE where
b = 1, and what R30's table reads from MXCSR otherwise. -/
def evexOutcome (i : Instr) (o : EvexOps) (s : State) (q : Quad) : FpResult :=
  let r := rolesOf i (s.low o.dest) (s.low o.src2) q
  fnmsub64 s.cfg.rules r.x r.y r.z
    (if o.b then roundingMode (o.ll.getLsbD 1) (o.ll.getLsbD 0) else mxcsrRounding s.mxcsr) (mxcsrControl s.mxcsr o.b)

section Evex

variable {i : Instr} {o : EvexOps} {s : State} {q : Quad}

theorem evexRm_of_not_reserved (h : o.reserved = false) (s : State) :
    evexRm s o = if o.b then roundingMode (o.ll.getLsbD 1) (o.ll.getLsbD 0) else mxcsrRounding s.mxcsr := by
  rw [evexRm, embeddedRounding_of_not_reserved h, rmOfBits_eq_roundingMode, rm_eq_mxcsrRounding]

/-! ## ExecEVEX in a ready state (R148) -/

theorem maskBit_eq_false : maskBit s o = false ↔ MaskOff s o := by
  rw [maskBit, Bool.or_eq_false_iff, beq_eq_false_iff_ne, MaskOff]

/-- A suppressed read goes with a mask bit 0 (R147). -/
theorem execEvex_of_readSuppressed (hs : EvexReady s) (hr : o.reserved = false) (hsup : readSuppressed s o = true)
    (parts : Parts) : execEvex parts o s = evexMaskedOff o s := by
  simp [execEvex, admission_eq_none.2 hs.toAdmitted, hr, udEvex_eq_false hs, hs.ts, hsup]

/-- Where the operand can be read the mask bit decides, the read being made or suppressed. -/
theorem execEvex_of_operand (hs : EvexReady s) (hr : o.reserved = false) (ho : EvexOperand s o q) (parts : Parts) :
    execEvex parts o s = if maskBit s o then evexCompute parts o q s else evexMaskedOff o s := by
  cases hsup : readSuppressed s o with
  | false =>
    simp [execEvex, admission_eq_none.2 hs.toAdmitted, hr, udEvex_eq_false hs, hs.ts, hsup, evexSrc3_eq_ok.2 ho]
  | true =>
    have hk : maskBit s o = false := by
      rw [← Bool.not_eq_true]
      intro hon
      simp [readSuppressed, hon] at hsup
    rw [execEvex_of_readSuppressed hs hr hsup, hk, if_neg Bool.false_ne_true]

/-- With the mask bit 1 the element is computed. -/
theorem execEvex_of_maskOn (hs : EvexReady s) (hr : o.reserved = false) (hk : MaskOn s o) (ho : EvexOperand s o q)
    (parts : Parts) : execEvex parts o s = evexCompute parts o q s := by
  rw [execEvex_of_operand hs hr ho, if_pos (maskBit_eq_true.2 hk)]

/-- A masked-off form makes no read that stops: a register form reads no memory, a suppressed read is not made (R147), and
any other finds its operand. -/
theorem readSuppressed_or_operand (hk : MaskOff s o)
    (h : s.cfg.maskSuppressesMemFault = true ∨ ∃ q, EvexOperand s o q) :
    readSuppressed s o = true ∨ ∃ q, EvexOperand s o q := by
  obtain hpar | hq := h
  · cases hsrc : o.src3 with
    | reg x n => exact .inr ⟨s.low (evexReg x n), by simp only [EvexOperand, hsrc]⟩
    | mem m => exact .inl (by simp [readSuppressed, maskBit_eq_false.2 hk, hsrc, Src3.isReg, hpar])
  · exact .inr hq

/-- With the mask bit 0 nothing is computed (R144). -/
theorem execEvex_of_maskOff (hs : EvexReady s) (hr : o.reserved = false) (hk : MaskOff s o)
    (h : s.cfg.maskSuppressesMemFault = true ∨ ∃ q, EvexOperand s o q) (parts : Parts) :
    execEvex parts o s = evexMaskedOff o s := by
  obtain hsup | ⟨q, ho⟩ := readSuppressed_or_operand hk h
  · exact execEvex_of_readSuppressed hs hr hsup parts
  · rw [execEvex_of_operand hs hr ho, maskBit_eq_false.2 hk, if_neg Bool.false_ne_true]

/-! ## Delivery with the mask bit 1 (R143, R146, R148) -/

/-- SAE keeps the flags of the value from MXCSR. -/
theorem evexCompute_of_value {res : Quad} {f : Flags} (hr : o.reserved = false)
    (hv : evexOutcome i o s q = .value res f) :
    evexCompute (rolesOf i) o q s =
      complete o.length ((s.orFlags (if o.b then {} else f)).writeLow o.dest res) := by
  unfold evexOutcome at hv
  simp only [evexCompute, evexRm_of_not_reserved hr, embeddedRounding_of_not_reserved hr, ctl_eq_mxcsrControl, hv]
  cases o.b <;> simp

/-- An EVEX form with its mask bit 1 for which FNMSUB64 returns a value completes with it, masked or not. -/
theorem exec_evex_delivers {res : Quad} {f : Flags} (hi : evexOps? i = some o) (hs : EvexReady s)
    (hr : o.reserved = false) (hk : MaskOn s o) (ho : EvexOperand s o q) (hn : NextOk s o.length)
    (hv : evexOutcome i o s q = .value res f) :
    ∃ t, exec i s = .next t ∧ Delivers s t o.dest o.length res (if o.b then {} else f) := by
  refine ⟨_, ?_, delivers_orFlags_writeLow_setRip s o.dest o.length res (if o.b then {} else f)⟩
  have hnext : NextOk ((s.orFlags (if o.b then {} else f)).writeLow o.dest res) o.length := hn
  rw [exec_of_evexOps hi, execEvex_of_maskOn hs hr hk ho, evexCompute_of_value hr hv]
  exact complete_of_ok hnext

/-- With exceptions masked, by MXCSR or by SAE, FNMSUB64 returns a value. -/
theorem exists_evexOutcome_value (hm : AllMasked s ∨ o.b = true) (i : Instr) (q : Quad) :
    ∃ res f, evexOutcome i o s q = .value res f := by
  obtain hm | hb := hm
  · exact exists_value_of_masked (hm.not_unmasked o.b) ..
  · exact saeNeverTraps _ _ _ _ _ _ hb

/-- With its mask bit 1 and exceptions masked, by MXCSR or by SAE, an EVEX form completes. -/
theorem exec_evex_of_masked (hi : evexOps? i = some o) (hs : EvexReady s) (hr : o.reserved = false) (hk : MaskOn s o)
    (ho : EvexOperand s o q) (hn : NextOk s o.length) (hm : AllMasked s ∨ o.b = true) :
    ∃ res f t, evexOutcome i o s q = .value res f ∧
      exec i s = .next t ∧ Delivers s t o.dest o.length res (if o.b then {} else f) := by
  obtain ⟨res, f, hv⟩ := exists_evexOutcome_value hm i q
  obtain ⟨t, ht, hd⟩ := exec_evex_delivers hi hs hr hk ho hn hv
  exact ⟨res, f, t, hv, ht, hd⟩

/-! ## Completion with the mask bit 0 (R144) -/

/-- Merging and zeroing are deliveries without flags. -/
theorem evexMaskedOff_of_ok (hn : NextOk s o.length) :
    ∃ t, evexMaskedOff o s = .next t ∧
      Delivers s t o.dest o.length (if o.z then 0#64 else s.low o.dest) {} := by
  have hnext : NextOk (s.writeLow o.dest (if o.z then 0#64 else s.low o.dest)) o.length := hn
  have hd := delivers_orFlags_writeLow_setRip s o.dest o.length (if o.z then 0#64 else s.low o.dest) {}
  rw [orFlags_none] at hd
  exact ⟨_, complete_of_ok hnext, hd⟩

end Evex

/-- Settles O39: with the mask bit 0 the three forms are the same delivery of DEST[63:0] or of zero. -/
theorem maskedOffForms : Obligations.MaskedOffForms := by
  intro i o s hi hs hr hk hn hread
  rw [exec_of_evexOps hi, execEvex_of_maskOff hs hr hk hread]
  exact evexMaskedOff_of_ok hn

/-! ## The three forms with the mask bit 1 (R140, R141, R142) -/

/-- Settles O36: the parts of 132 are (DEST, SRC3, SRC2). -/
theorem vfnmsub132sdEvexResult : Obligations.Vfnmsub132sdEvexResult := fun o _ _ hs hr hk ho hn hm =>
  exec_evex_of_masked (i := .vfnmsub132sdEvex o) rfl hs hr hk ho hn hm

/-- Settles O37: the parts of 213 are (SRC2, DEST, SRC3). -/
theorem vfnmsub213sdEvexResult : Obligations.Vfnmsub213sdEvexResult := fun o _ _ hs hr hk ho hn hm =>
  exec_evex_of_masked (i := .vfnmsub213sdEvex o) rfl hs hr hk ho hn hm

/-- Settles O38: the parts of 231 are (SRC2, SRC3, DEST). -/
theorem vfnmsub231sdEvexResult : Obligations.Vfnmsub231sdEvexResult := fun o _ _ hs hr hk ho hn hm =>
  exec_evex_of_masked (i := .vfnmsub231sdEvex o) rfl hs hr hk ho hn hm

end Sys2Proof.Machine

/-! The family 60_exceptions.md: the #UD and #NM conditions, the floating-point trap, and what a fault leaves. -/

namespace Sys2Proof.Machine

open Sys2Proof

/-! ## The #UD conditions of the state (R164, R165, R166) -/

section Conditions

variable {s : State}

theorem noVexMode_eq_true : s.noVexMode = true ↔
    s.cr0.getLsbD 0 = false ∨ s.mode = .real ∨ s.mode = .virtual8086 := by
  simp only [State.noVexMode, State.cr0PE, Bool.or_eq_true, Bool.not_eq_true', beq_iff_eq, or_assoc]

/-- XCR0[2:1] is not 11b where one of its two bits is 0. -/
theorem avxState_eq_false : s.avxState = false ↔ s.xcr0.getLsbD 1 = false ∨ s.xcr0.getLsbD 2 = false := by
  have hfield : ∀ t : BitVec 2, (t == 3#2) = (t.getLsbD 0 && t.getLsbD 1) := by decide
  rw [State.avxState, hfield, Bool.and_eq_false_iff]
  simp only [BitVec.getLsbD_extractLsb', Nat.reduceLT, Nat.reduceAdd, decide_true, Bool.true_and]

/-- XCR0[7:5] is not 111b where one of its three bits is 0. -/
theorem avx512State_eq_false : s.avx512State = false ↔
    s.xcr0.getLsbD 5 = false ∨ s.xcr0.getLsbD 6 = false ∨ s.xcr0.getLsbD 7 = false := by
  have hfield : ∀ t : BitVec 3, (t == 7#3) = (t.getLsbD 0 && (t.getLsbD 1 && t.getLsbD 2)) := by decide
  rw [State.avx512State, hfield, Bool.and_eq_false_iff, Bool.and_eq_false_iff]
  simp only [BitVec.getLsbD_extractLsb', Nat.reduceLT, Nat.reduceAdd, decide_true, Bool.true_and]

theorem udVex_eq_true : udVex s = true ↔
    s.cr0.getLsbD 0 = false ∨ s.mode = .real ∨ s.mode = .virtual8086 ∨ s.cr4.getLsbD 18 = false ∨
      s.xcr0.getLsbD 1 = false ∨ s.xcr0.getLsbD 2 = false ∨ s.cfg.fma = false := by
  simp only [udVex, State.osxsave, Bool.or_eq_true, Bool.not_eq_true', noVexMode_eq_true, avxState_eq_false, or_assoc]

theorem udEvex_eq_true : udEvex s = true ↔
    s.cr0.getLsbD 0 = false ∨ s.mode = .real ∨ s.mode = .virtual8086 ∨ s.cr4.getLsbD 18 = false ∨
      s.xcr0.getLsbD 1 = false ∨ s.xcr0.getLsbD 2 = false ∨
      s.cfg.avx512f = false ∨ s.xcr0.getLsbD 5 = false ∨ s.xcr0.getLsbD 6 = false ∨ s.xcr0.getLsbD 7 = false := by
  simp only [udEvex, State.osxsave, Bool.or_eq_true, Bool.not_eq_true', noVexMode_eq_true, avxState_eq_false,
    avx512State_eq_false, or_assoc]
  tauto

theorem noVexMode_of_mode64 (hmode : s.mode = .mode64) (hpe : s.cr0.getLsbD 0 = true) : s.noVexMode = false := by
  rw [← Bool.not_eq_true, noVexMode_eq_true, hmode, hpe]
  decide

/-- In 64-bit mode with the AVX state enabled, a VEX form lacks at most FMA. -/
theorem udVex_of_mode64 (hmode : s.mode = .mode64) (hpe : s.cr0.getLsbD 0 = true) (hos : s.cr4.getLsbD 18 = true)
    (havx : s.xcr0.extractLsb' 1 2 = 3#2) : udVex s = !s.cfg.fma := by
  simp [udVex, noVexMode_of_mode64 hmode hpe, State.osxsave, State.avxState, hos, havx, -BitVec.getLsbD_eq_getElem]

/-- In 64-bit mode with the AVX state enabled, an EVEX form lacks at most the AVX-512 state or AVX512F. -/
theorem udEvex_of_mode64 (hmode : s.mode = .mode64) (hpe : s.cr0.getLsbD 0 = true) (hos : s.cr4.getLsbD 18 = true)
    (havx : s.xcr0.extractLsb' 1 2 = 3#2) : udEvex s = (!s.avx512State || !s.cfg.avx512f) := by
  simp [udEvex, noVexMode_of_mode64 hmode hpe, State.osxsave, State.avxState, hos, havx, -BitVec.getLsbD_eq_getElem]

end Conditions

/-! ## #UD, then #NM (R167, R169) -/

section StateChecks

variable {s : State}

theorem execVex_of_udVex (ha : Admitted s) (hud : udVex s = true) (parts : Parts) (o : VexOps) :
    execVex parts o s = .fault (.raised .ud s) := by
  simp [execVex, admission_eq_none.2 ha, hud, raise]

theorem execVex_of_ts (ha : Admitted s) (hud : udVex s = false) (hts : s.cr0TS = true) (parts : Parts) (o : VexOps) :
    execVex parts o s = .fault (.raised .nm s) := by
  simp [execVex, admission_eq_none.2 ha, hud, hts, raise]

theorem execEvex_of_udEvex {o : EvexOps} (ha : Admitted s) (hud : o.reserved = true ∨ udEvex s = true)
    (parts : Parts) : execEvex parts o s = .fault (.raised .ud s) := by
  simp [execEvex, admission_eq_none.2 ha, hud, raise]

theorem execEvex_of_ts {o : EvexOps} (ha : Admitted s) (hr : o.reserved = false) (hud : udEvex s = false)
    (hts : s.cr0TS = true) (parts : Parts) : execEvex parts o s = .fault (.raised .nm s) := by
  simp [execEvex, admission_eq_none.2 ha, hr, hud, hts, raise]

end StateChecks

/-- The two families are apart. -/
theorem evexOps_of_vexOps {i : Instr} {o : VexOps} (h : vexOps? i = some o) : evexOps? i = none := by
  cases i <;> cases h <;> rfl

theorem vexOps_of_evexOps {i : Instr} {o : EvexOps} (h : evexOps? i = some o) : vexOps? i = none := by
  cases i <;> cases h <;> rfl

/-- Settles O45: the conditions that concern the form's family are the ones its meaning checks first. -/
theorem stateUndefined : Obligations.StateUndefined := by
  intro i s ha h
  obtain ⟨o, ho⟩ | ⟨o, ho⟩ := vexOps_or_evexOps i
  · rw [exec_of_vexOps ho]
    refine execVex_of_udVex ha (udVex_eq_true.2 ?_) _ o
    simpa only [ho, evexOps_of_vexOps ho, ne_eq, reduceCtorEq, not_true_eq_false, not_false_eq_true, true_and,
      false_and, exists_false, or_false] using h
  · rw [exec_of_evexOps ho]
    refine execEvex_of_udEvex ha ?_ _
    rw [udEvex_eq_true]
    simp only [ho, vexOps_of_evexOps ho, ne_eq, reduceCtorEq, not_true_eq_false, not_false_eq_true, true_and,
      false_and, false_or, Option.some.injEq, exists_eq_left'] at h
    tauto

/-- Settles O46: CR0.TS is checked before any operand is read, and CR0.EM is not checked. -/
theorem deviceNotAvailable : Obligations.DeviceNotAvailable := by
  intro i s ha hmode hpe hos havx hvex hevex hts
  obtain ⟨o, ho⟩ | ⟨o, ho⟩ := vexOps_or_evexOps i
  · have hfma : s.cfg.fma = true := hvex (by simp [ho])
    have hud : udVex s = false := by rw [udVex_of_mode64 hmode hpe hos havx, hfma, Bool.not_true]
    rw [exec_of_vexOps ho, execVex_of_ts ha hud hts]
  · obtain ⟨hf, h512, hr⟩ := hevex o ho
    have hud : udEvex s = false := by
      simp [udEvex_of_mode64 hmode hpe hos havx, State.avx512State, hf, h512]
    rw [exec_of_evexOps ho, execEvex_of_ts ha hr hud hts]

/-! ## The floating-point trap (R163) -/

/-- The floating-point trap with R30's table and CR4.OSXMMEXCPT, bit 10, written out. -/
theorem fpTrap_flagsAdded (f : Flags) (s : State) : ∃ m, FlagsAdded s.mxcsr m f ∧
    fpTrap f s = .fault (.raised (if s.cr4.getLsbD 10 then .xm else .ud) { s with mxcsr := m }) :=
  ⟨_, orFlags_flagsAdded s f, fpTrap_eq f s⟩

theorem vexCompute_of_trap {i : Instr} {o : VexOps} {s : State} {q : Quad} {f : Flags}
    (ht : vexOutcome i o s q = .trap f) : vexCompute (rolesOf i) o q s = fpTrap f s := by
  unfold vexOutcome at ht
  simp only [vexCompute, rm_eq_mxcsrRounding, ctl_eq_mxcsrControl, ht]

theorem evexCompute_of_trap {i : Instr} {o : EvexOps} {s : State} {q : Quad} {f : Flags} (hr : o.reserved = false)
    (ht : evexOutcome i o s q = .trap f) : evexCompute (rolesOf i) o q s = fpTrap f s := by
  unfold evexOutcome at ht
  simp only [evexCompute, evexRm_of_not_reserved hr, embeddedRounding_of_not_reserved hr, ctl_eq_mxcsrControl, ht]

/-- Settles O40: in both families what FNMSUB64 returns is what the form ends with. -/
theorem unmaskedOutcome : Obligations.UnmaskedOutcome := by
  refine ⟨fun i o s q hi hs ho => ⟨fun f ht => ?_, fun res f hv hn => exec_vex_delivers hi hs ho hn hv⟩,
    fun i o s q hi hs hr hk ho hb => ?_⟩
  · rw [exec_of_vexOps hi, execVex_ready hs ho, vexCompute_of_trap ht]
    exact fpTrap_flagsAdded f s
  · intro r out
    -- b = 0 is no embedded rounding: the controls are MXCSR's (42_vfnmsub_sd_evex.md R143).
    have hout : evexOutcome i o s q = out := by rw [evexOutcome, hb, if_neg Bool.false_ne_true]
    rw [← hout]
    refine ⟨fun f ht => ?_, fun res f hv hn => ?_⟩
    · rw [exec_of_evexOps hi, execEvex_of_maskOn hs hr hk ho, evexCompute_of_trap hr ht]
      exact fpTrap_flagsAdded f s
    · simpa only [hb, Bool.false_eq_true, if_false] using exec_evex_delivers hi hs hr hk ho hn hv

/-! ## What a fault leaves (R160, R162, R170) -/

/-- The faults a form can end with in the state `s`: an exception that leaves the state but for a page fault's CR2, an
absent byte, and the floating-point trap with its flags. -/
inductive FaultOf (s : State) : Fault → Prop
  | exception (x : Exc) : FaultOf s (.raised x (leftBy x s))
  | absent (a : Addr) : FaultOf s (.absentByte a s)
  | trap (x : Exc) (g : Flags) (hx : x = .xm ∨ x = .ud) : FaultOf s (.raised x (s.orFlags g))

theorem stop_faultOf {st : Stop} {s : State} {f : Fault} (h : stop st s = .fault f) : FaultOf s f := by
  cases st with
  | exc x =>
    rw [stop, raise_eq] at h
    cases h
    exact .exception x
  | absent a =>
    cases h
    exact .absent a
  | refuse r => cases h

theorem fpTrap_faultOf (s : State) (g : Flags) :
    FaultOf s (.raised (if s.osxmmexcpt then .xm else .ud) (s.orFlags g)) := by
  refine .trap _ g ?_
  cases s.osxmmexcpt with
  | true => exact .inl rfl
  | false => exact .inr rfl

/-- Every fault of exec, for all six forms at once. -/
theorem exec_fault {i : Instr} {s : State} {f : Fault} (h : exec i s = .fault f) : FaultOf s f := by
  obtain ⟨o, ho⟩ | ⟨o, ho⟩ := vexOps_or_evexOps i
  · rw [exec_of_vexOps ho] at h
    obtain rfl | rfl | ⟨st, -, hst⟩ | ⟨_, g, -, -, rfl⟩ := execVex_fault h
    · exact .exception .ud
    · exact .exception .nm
    · exact stop_faultOf hst
    · exact fpTrap_faultOf s g
  · rw [exec_of_evexOps ho] at h
    obtain rfl | rfl | ⟨st, -, hst⟩ | ⟨_, g, -, -, rfl⟩ := execEvex_fault h
    · exact .exception .ud
    · exact .exception .nm
    · exact stop_faultOf hst
    · exact fpTrap_faultOf s g

section LeftBy

variable (x : Exc) (s : State)

/-- Nothing but CR2 can differ after an exception that is not the floating-point trap. -/
theorem leftBy_eq : leftBy x s = { s with cr2 := (leftBy x s).cr2 } := by
  cases x <;> rfl

theorem leftBy_mxcsr : (leftBy x s).mxcsr = s.mxcsr := by
  cases x <;> rfl

theorem leftBy_of_not_pf {x : Exc} (h : ∀ ec a, x ≠ .pf ec a) : leftBy x s = s := by
  cases x with
  | pf ec a => exact absurd rfl (h ec a)
  | ud => rfl
  | nm => rfl
  | ss => rfl
  | gp => rfl
  | ac => rfl
  | xm => rfl

end LeftBy

/-- Settles O44: CR2 differs only after a page fault, MXCSR only after a floating-point trap. -/
theorem faultsArePrecise : Obligations.FaultsArePrecise := by
  refine fun i s left => ⟨fun x h => ?_, fun a h => ?_⟩
  · cases exec_fault h with
    | exception =>
      have hm := leftBy_mxcsr x s
      refine ⟨?_, by rw [hm], fun k _ hk => by rwa [hm], fun hne => absurd hm hne, fun ec a hx => ?_, fun hx => ?_⟩
      · rw [hm]
        exact leftBy_eq x s
      · rw [hx]
        rfl
      · rw [leftBy_of_not_pf s hx]
    | trap _ g hx =>
      refine ⟨rfl, (orFlags_flagsAdded s g).rest, fun k _ hk => ?_, fun _ => hx, fun ec a hpf => ?_, fun _ => rfl⟩
      · rw [orFlags_mxcsr, BitVec.getLsbD_or, hk, Bool.true_or]
      · obtain rfl | rfl := hx <;> cases hpf
  · cases exec_fault h with
    | absent => rfl

end Sys2Proof.Machine

/-! The family 70_reset_and_hazards.md: the step at a stored instruction, and the first step after reset. -/

namespace Sys2Proof.Machine

open Sys2Proof

/-! ## The step at a stored instruction (R192) -/

theorem vexOps_length_le (o : VexOps) : o.length ≤ maxInstrBytes := by
  have hpre := prefixes_count_le o.pre
  have htail := src3_tailSize_le o.src3
  rw [VexOps.length, maxInstrBytes]
  omega

/-- No encoding is longer than what is fetched (R60, R77). -/
theorem encode_length_le (i : Instr) : (encode i).length ≤ maxInstrBytes := by
  cases i with
  | vfnmsub132sdVex o => exact (Laws.vex_encode_length _ o).trans_le (vexOps_length_le o)
  | vfnmsub213sdVex o => exact (Laws.vex_encode_length _ o).trans_le (vexOps_length_le o)
  | vfnmsub231sdVex o => exact (Laws.vex_encode_length _ o).trans_le (vexOps_length_le o)
  | vfnmsub132sdEvex o => exact (Laws.evex_encode_length _ o).trans_le (evexOps_length_le o)
  | vfnmsub213sdEvex o => exact (Laws.evex_encode_length _ o).trans_le (evexOps_length_le o)
  | vfnmsub231sdEvex o => exact (Laws.evex_encode_length _ o).trans_le (evexOps_length_le o)

/-- Settles O9: the bytes fetched begin with the encoding, which decodes to its instruction whatever follows. -/
theorem stepRunsStoredInstruction : Obligations.StepRunsStoredInstruction := by
  intro s i hadm hwf hstored
  obtain ⟨rest, hfetch⟩ := fetch_of_storedAtPc hstored (encode_length_le i)
  rw [step, admission_eq_none.2 hadm, hfetch, decodeOfEncode i rest hwf]

/-! ## Bytes placed at the program counter -/

theorem admitted_placeBytes {s : State} (h : Admitted s) (bs : List Byte) : Admitted (placeBytes s bs) :=
  ⟨h.mode, h.mxcsr, h.debug, h.singleStep⟩

/-- Bytes placed at the program counter stand there, where nothing keeps them from being fetched. -/
theorem storedAtPc_placeBytes {s : State} {bs : List Byte} (hspace : s.fetchBase.toNat + bs.length ≤ 2 ^ 64)
    (hcan : ∀ k < bs.length, Canonical s.cfg.va (s.fetchBase + BitVec.ofNat 64 k)) (hxlat : s.xlat = [])
    (hdev : s.devices = []) : StoredAtPc (placeBytes s bs) bs := by
  refine ⟨hspace, fun k hk => ⟨hcan k hk, ?_, ?_, ?_⟩⟩
  · rw [placeBytes, setMem_xlat, hxlat]
    rfl
  · rw [placeBytes, setMem_devices, hdev]
    exact fun r hr => absurd hr List.not_mem_nil
  · exact memByte_memSetBytes s.mem s.fetchBase bs (by omega) k hk

/-! ## The first step after reset (R190) -/

theorem reset_admitted : Admitted State.reset := ⟨by decide, by decide, rfl, by decide⟩

theorem reset_fetchBase : State.reset.fetchBase = 0xFFFFFFF0#64 := by decide

/-- The addresses from the reset vector on are below 2^47 for as long as an encoding. -/
theorem reset_vector_canonical {k : Nat} (hk : k < maxInstrBytes) :
    Canonical State.reset.cfg.va (State.reset.fetchBase + BitVec.ofNat 64 k) := by
  rw [← canonical_eq_true, reset_fetchBase]
  have hall : ∀ j < maxInstrBytes, canonical State.reset.cfg.va (0xFFFFFFF0#64 + BitVec.ofNat 64 j) = true := by decide
  exact hall k hk

theorem storedAtPc_placeBytes_reset {bs : List Byte} (hlen : bs.length ≤ maxInstrBytes) :
    StoredAtPc (placeBytes State.reset bs) bs := by
  refine storedAtPc_placeBytes ?_ (fun k hk => reset_vector_canonical (hk.trans_le hlen)) rfl rfl
  rw [reset_fetchBase]
  rw [maxInstrBytes] at hlen
  simp only [BitVec.toNat_ofNat]
  omega

/-- In real-address mode every form raises #UD (R166). -/
theorem exec_of_real {s : State} (ha : Admitted s) (hmode : s.mode = .real) (i : Instr) :
    exec i s = .fault (.raised .ud s) :=
  stateUndefined i s ha (.inr (.inl hmode))

/-- Settles O13: the machine resets into real-address mode, and bytes placed in memory do not change the mode. -/
theorem resetRaisesUndefined : Obligations.ResetRaisesUndefined := by
  refine fun i => ⟨exec_of_real reset_admitted rfl i, fun hwf => ?_⟩
  have hadm := admitted_placeBytes reset_admitted (encode i)
  rw [stepRunsStoredInstruction _ i hadm hwf (storedAtPc_placeBytes_reset (encode_length_le i))]
  exact exec_of_real hadm rfl i

end Sys2Proof.Machine
